-- ==== Sys2Proof/Word.lean ====
section
/-! DEFINITION. The word types of the block (00_scope.md R5, R6, R8): a sample is an unsigned 8-bit integer, every
register is read and written as a 32-bit word, a dimension register holds at most 16 bits. -/

namespace Sys2Proof

/-- A sample, an intensity, or a threshold: an unsigned 8-bit integer (R5, `SAMPLE_W = 8`). -/
abbrev Sample := BitVec 8

/-- A word of the host interface (R8), and a command word (R90). -/
abbrev Word := BitVec 32

/-- The contents of a dimension register; `DIM_W` is at most 16 (R6; log 17). -/
abbrev Dim := BitVec 16

end Sys2Proof
end

