-- ==== Sys2Proof/Syntax.lean ====
section
/-! DEFINITION. The commands of the block (30_encoding.md R96), one constructor per row of spec/opcode_table.json.
No command names a register or an address (R94); only `BIN` has an operand of its own, its threshold (R93). -/

namespace Sys2Proof

/-- The thirteen commands of R96, in the table's order. -/
inductive Instr where
  /-- `HIST`, 0x03: histogram of grid A (R111) -/
  | hist
  /-- `BIN #T`, 0x05: binarize grid A with threshold `t` (R121) -/
  | bin (t : Sample)
  /-- `CONV_AVG`, 0x08: `KLIB[0]` (R140) -/
  | convAvg
  /-- `CONV_GAUSS`, 0x09: `KLIB[1]` (R141) -/
  | convGauss
  /-- `CONV_LAP`, 0x0A: `KLIB[2]` (R142) -/
  | convLap
  /-- `CONV_PRWX`, 0x0B: `KLIB[4]` (R143) -/
  | convPrwx
  /-- `CONV_PRWY`, 0x0C: `KLIB[5]` (R144) -/
  | convPrwy
  /-- `EDGE_PRW`, 0x0D: `KLIB[4]`, `KLIB[5]` (R161) -/
  | edgePrw
  /-- `CONV_SBLX`, 0x0E: `KLIB[6]` (R145) -/
  | convSblx
  /-- `CONV_SBLY`, 0x0F: `KLIB[7]` (R146) -/
  | convSbly
  /-- `EDGE_SBL`, 0x10: `KLIB[6]`, `KLIB[7]` (R162) -/
  | edgeSbl
  /-- `CONV_HPF`, 0x11: `KLIB[3]` (R147) -/
  | convHpf
  /-- `MAX`, 0x12: grids A and B (R160) -/
  | max
deriving DecidableEq, Repr

end Sys2Proof
end

