-- ==== Sys2Proof/Decode.lean ====
section
/-! DEFINITION. The decoder of 30_encoding.md R95, total on every 32-bit word and rejecting by name, and after it the
encoder. Both read one table: the opcode map of R96. A command is ONE 32-bit word (R90), so the decoder takes a word,
not bytes. -/

namespace Sys2Proof

/-! ### Format CMD32 (R91) -/

/-- `OPC`, bits 7:0. -/
def opc (w : Word) : BitVec 8 := w.extractLsb' 0 8

/-- `IMM8`, bits 15:8. -/
def imm8 (w : Word) : BitVec 8 := w.extractLsb' 8 8

/-- `RSV`, bits 31:16. -/
def rsv (w : Word) : BitVec 16 := w.extractLsb' 16 16

/-- The word with the given fields: `{rsv, imm8, opc}`. -/
def cmd32 (r : BitVec 16) (imm op : BitVec 8) : Word := (r ++ imm ++ op : BitVec 32)

/-! ### Opcode map (R96) -/

/-- The `OPC` of each command. -/
def Instr.opcode : Instr → BitVec 8
  | .hist => 0x03
  | .bin _ => 0x05
  | .convAvg => 0x08
  | .convGauss => 0x09
  | .convLap => 0x0A
  | .convPrwx => 0x0B
  | .convPrwy => 0x0C
  | .edgePrw => 0x0D
  | .convSblx => 0x0E
  | .convSbly => 0x0F
  | .edgeSbl => 0x10
  | .convHpf => 0x11
  | .max => 0x12

/-- The commands other than `BIN`, which have no immediate. -/
def plainCommands : List Instr :=
  [.hist, .convAvg, .convGauss, .convLap, .convPrwx, .convPrwy, .edgePrw, .convSblx, .convSbly, .edgeSbl, .convHpf,
    .max]

/-! ### Decoding (R95) -/

/-- Why a word is illegal: the three cases of R98. -/
inductive Illegal where
  /-- a bit of `RSV` is 1 -/
  | reservedBits
  /-- `IMM8` is not 0 in a command other than `BIN` -/
  | immediate
  /-- `OPC` is a reserved code of R99 -/
  | reservedOpcode (op : BitVec 8)
deriving DecidableEq, Repr

/-- The result of decoding a word. -/
inductive Decoded where
  | instr (i : Instr)
  | illegal (why : Illegal)
deriving DecidableEq, Repr

/-- `decode` of R95, line by line. -/
def decode (w : Word) : Decoded :=
  if rsv w ≠ 0 then .illegal .reservedBits
  else if opc w = 0x05 then .instr (.bin (imm8 w))
  else if imm8 w ≠ 0 then .illegal .immediate
  else match plainCommands.find? (fun i => i.opcode == opc w) with
    | some i => .instr i
    | none => .illegal (.reservedOpcode (opc w))

/-- The command of a decoded word, if it is one. -/
def Decoded.instr? : Decoded → Option Instr
  | .instr i => some i
  | .illegal _ => none

/-- The command a word of the opcode table stands for, bits numbered as the table numbers them; the bits above `nbits`
are 0. A word of more than 32 bits is no command. -/
def decodeTableWord (nbits w : Nat) : Option Instr :=
  let v := w % 2 ^ nbits
  if v < 2 ^ 32 then (decode (BitVec.ofNat 32 v)).instr? else none

/-! ### Encoding -/

/-- The immediate of a command: the threshold of `BIN`, 0 elsewhere (R91, R93). -/
def Instr.immediate : Instr → BitVec 8
  | .bin t => t
  | _ => 0

/-- The command word of a command (R96, R101): `OPC`, and for `BIN #T` `(T << 8) | 0x05`. -/
def encode (i : Instr) : Word := cmd32 0 i.immediate i.opcode

/-! ### The table's mask and match (R96) -/

/-- `mask` of the command's row. -/
def Instr.rowMask : Instr → Word
  | .bin _ => 0xFFFF00FF
  | _ => 0xFFFFFFFF

/-- `match` of the command's row. -/
def Instr.rowMatch (i : Instr) : Word := i.opcode.setWidth 32

end Sys2Proof
end

