-- ==== Sys2Proof/Config.lean ====
section
/-! DEFINITION. What is fixed for one machine and what the spec leaves free.
The types of the parameters of 00_scope.md R6 and R7 (their well-formedness and their default values are in
Machine/Params.lean), and the free values: the contents of the bins and of the sample memories after a reset
(10_state.md R42: "a model quantifies over every such initial content"). `BUS` and `BASE` (92_eei_decisions.md D2, D3)
are carriers of the transactions and have no place in the model: log 14. -/

namespace Sys2Proof

/-- The three sample memories (10_state.md R37). -/
inductive MemId where
  | A
  | B
  | O
deriving DecidableEq, Repr

/-- The post-processing policy of a kernel: codes 0, 1 and 2 of R7. -/
inductive Policy where
  /-- `output = truncate(sum)` (42_convolution.md R136) -/
  | direct
  /-- `output = |truncate(sum)| / scale` (R137) -/
  | scaledMagnitude
  /-- `output = clamp(sum, 0, 255)` (R138) -/
  | clamped
deriving DecidableEq, Repr

/-- One record of the kernel library (R7): nine signed numerators in row-major order (the first is `N[0][0]`, the
weight of the upper-left neighbour), a denominator, a policy, a divisor. -/
structure Kernel where
  num : Vector (BitVec 8) 9
  den : BitVec 8
  policy : Policy
  scale : BitVec 8
deriving DecidableEq, Repr

/-- The parameters of R6 and R7 as plain values. -/
structure ParamValues where
  /-- `ADDR_W` -/
  addrW : Nat
  /-- `DIM_W` -/
  dimW : Nat
  /-- `CNT_W` -/
  cntW : Nat
  /-- `KLIB` -/
  klib : Vector Kernel 8
deriving DecidableEq, Repr

/-- FREE VALUE (log 3): the byte at an index of a sample memory that nothing has written since reset number `epoch`. -/
opaque Config.resetSample : (epoch : Nat) → MemId → (index : Nat) → Sample

/-- FREE VALUE (log 4): the count in a bin that no `HIST` has built since reset number `epoch`, before it is cut to
`CNT_W` bits. -/
opaque Config.resetBin : (epoch : Nat) → (intensity : Nat) → Nat

end Sys2Proof
end

