-- ==== Sys2Proof/Machine/Params.lean ====
section
/-! DEFINITION. The well-formedness of the parameters (00_scope.md R6, R7; 42_convolution.md R133), the parameters as
the machine holds them (a model "takes only a well-formed `KLIB`", R7, U9: a `Params` cannot be built otherwise, log 6),
and their default values (R6, R134). -/

namespace Sys2Proof

/-! ### Kernels -/

/-- `KLIB[q].N[r][c]` as a signed integer. -/
def Kernel.coef (K : Kernel) (r c : Fin 3) : Int :=
  (K.num[3 * r.val + c.val]'(by omega)).toInt

/-- The nine numerators as signed integers, in row-major order. -/
def Kernel.numerators (K : Kernel) : List Int := K.num.toList.map BitVec.toInt

/-- The sum of the positive numerators. -/
def Kernel.positiveSum (K : Kernel) : Int := (K.numerators.map (fun v => max v 0)).sum

/-- The sum of the absolute values of the negative numerators. -/
def Kernel.negativeSum (K : Kernel) : Int := (K.numerators.map (fun v => max (-v) 0)).sum

/-- R7, the condition of the policy. -/
def Kernel.policyWf (K : Kernel) : Bool :=
  match K.policy with
  | .direct => K.numerators.all (fun v => decide (0 ≤ v)) && decide (K.numerators.sum = K.den.toNat)
  | .scaledMagnitude =>
    decide (K.positiveSum ≤ K.den.toNat * K.scale.toNat) && decide (K.negativeSum ≤ K.den.toNat * K.scale.toNat)
  | .clamped => true

/-- R7: one entry of the library is well formed; `DEN` and `SCALE` lie in 1 to 255. -/
def Kernel.wf (K : Kernel) : Bool := decide (1 ≤ K.den.toNat) && decide (1 ≤ K.scale.toNat) && K.policyWf

/-- The code of a policy (R7), as the kernel window shows it. -/
def Policy.code : Policy → Nat
  | .direct => 0
  | .scaledMagnitude => 1
  | .clamped => 2

/-- R133: the policies the source fixes for kernels 0 to 7. -/
def fixedPolicies : List Policy :=
  [.direct, .direct, .scaledMagnitude, .clamped, .scaledMagnitude, .scaledMagnitude, .scaledMagnitude,
    .scaledMagnitude]

/-- R133: the divisors the source fixes for kernels 0 to 7. -/
def fixedScales : List (BitVec 8) := [1, 1, 8, 1, 3, 3, 4, 4]

/-! ### All parameters -/

/-- The constraints of R6, R7 and R133. -/
def ParamValues.wf (p : ParamValues) : Bool :=
  decide (12 ≤ p.addrW) && decide (p.addrW ≤ 30) && decide (1 ≤ p.dimW) && decide (p.dimW ≤ 16)
    && decide (2 ^ p.addrW < 2 ^ p.cntW) && decide (p.cntW ≤ 32)
    && p.klib.toList.all Kernel.wf
    && decide (p.klib.toList.map Kernel.policy = fixedPolicies)
    && decide (p.klib.toList.map Kernel.scale = fixedScales)

/-- The parameters of a machine: well-formed values only (R7, U9). -/
structure Params where
  values : ParamValues
  ok : values.wf = true
deriving DecidableEq, Repr

/-- `ADDR_W` -/
def Params.addrW (p : Params) : Nat := p.values.addrW

/-- `DIM_W` -/
def Params.dimW (p : Params) : Nat := p.values.dimW

/-- `CNT_W` -/
def Params.cntW (p : Params) : Nat := p.values.cntW

/-- `KLIB[q]` -/
def Params.kernel (p : Params) (q : Fin 8) : Kernel := p.values.klib[q]

/-- `MAX_SAMPLES = 2^ADDR_W` (R6), written `S` in 20_memory.md R61. -/
def Params.maxSamples (p : Params) : Nat := 2 ^ p.addrW

/-! ### Default values (R6, R134; the coefficients are from general knowledge, G1 and G2: log 7) -/

/-- KLIB[0], Average. -/
def kernelAverage : Kernel := ⟨#v[1, 1, 1, 1, 1, 1, 1, 1, 1], 9, .direct, 1⟩

/-- KLIB[1], Gaussian. -/
def kernelGaussian : Kernel := ⟨#v[1, 2, 1, 2, 4, 2, 1, 2, 1], 16, .direct, 1⟩

/-- KLIB[2], Laplacian. -/
def kernelLaplacian : Kernel := ⟨#v[-1, -1, -1, -1, 8, -1, -1, -1, -1], 1, .scaledMagnitude, 8⟩

/-- KLIB[3], Laplacian-HPF. -/
def kernelLaplacianHpf : Kernel := ⟨#v[-1, -1, -1, -1, 9, -1, -1, -1, -1], 1, .clamped, 1⟩

/-- KLIB[4], Prewitt-X. -/
def kernelPrewittX : Kernel := ⟨#v[-1, 0, 1, -1, 0, 1, -1, 0, 1], 1, .scaledMagnitude, 3⟩

/-- KLIB[5], Prewitt-Y. -/
def kernelPrewittY : Kernel := ⟨#v[-1, -1, -1, 0, 0, 0, 1, 1, 1], 1, .scaledMagnitude, 3⟩

/-- KLIB[6], Sobel-X. -/
def kernelSobelX : Kernel := ⟨#v[-1, 0, 1, -2, 0, 2, -1, 0, 1], 1, .scaledMagnitude, 4⟩

/-- KLIB[7], Sobel-Y. -/
def kernelSobelY : Kernel := ⟨#v[-1, -2, -1, 0, 0, 0, 1, 2, 1], 1, .scaledMagnitude, 4⟩

/-- The default library of R134. -/
def defaultKlib : Vector Kernel 8 :=
  #v[kernelAverage, kernelGaussian, kernelLaplacian, kernelLaplacianHpf, kernelPrewittX, kernelPrewittY, kernelSobelX,
    kernelSobelY]

/-- The default values of R6: `ADDR_W = 20`, `DIM_W = 16`, `CNT_W = 32`, the library of R134. -/
def defaultParamValues : ParamValues := ⟨20, 16, 32, defaultKlib⟩

theorem defaultParamValues_wf : defaultParamValues.wf = true := by decide +kernel

/-- The parameters this spec uses in every example (R6). -/
def Params.default : Params := ⟨defaultParamValues, defaultParamValues_wf⟩

end Sys2Proof
end

