-- ==== Sys2Proof/Machine/State.lean ====
section
/-! DEFINITION. The state of the machine as plain data: the block's state (10_state.md R20, R23, R33, R37), the
parameters that no step changes (R41), and what stands for the two other agents (00_scope.md R12): the transactions the
host will perform and the resets the platform will raise, in the one total order of 20_memory.md R73, and the responses
the host has received. -/

namespace Sys2Proof.Machine

/-! ### Sample memories (R37) -/

/-- A sample memory: the bytes written since reset, by flat index. An index that is not listed has not been written;
what it reads as is `Config.resetSample`, a free value (R42; log 3). -/
abbrev Memory := List Host.Cell

/-- The canonical form: indices strictly rising. (An unlisted index holds no written byte, so no entry can equal what
an unlisted index holds.) -/
abbrev Memory.wf (m : Memory) : Prop := List.Pairwise (fun c d => c.1 < d.1) m

/-- Every listed index lies in a memory of `size` samples. -/
abbrev Memory.within (size : Nat) (m : Memory) : Prop := ∀ c ∈ m, c.1 < size

/-! ### Errors (60_exceptions.md R194) -/

/-- The codes of `STATUS.ERR` that have a name (R194); codes 5 to 15 are "never produced by the block"
(log 18). -/
inductive ErrCode where
  /-- code 0 -/
  | none
  /-- code 1, R197 -/
  | illegalOp
  /-- code 2, R198 -/
  | badDim
  /-- code 3, R199 -/
  | dimMismatch
  /-- code 4, reserved, never raised (R195) -/
  | invalidParam
deriving DecidableEq, Repr

/-- Why a transaction is answered ERROR: the four cases of 20_memory.md R64, in its order. -/
inductive BusError where
  /-- case 1, the busy gate (R70) -/
  | busy
  /-- case 2 (R61) -/
  | unmapped
  /-- case 3 (R63, R65) -/
  | sizeOrAlignment
  /-- case 4 -/
  | readOnly
deriving DecidableEq, Repr

/-! ### The host interface (20_memory.md R60) -/

/-- What a transaction does at its offset: `HostRead(addr, n)` and `HostWrite(addr, n, v)` with n = 1 or 4. -/
inductive Access where
  | read1
  | read4
  | write1 (v : BitVec 8)
  | write4 (v : Word)
deriving DecidableEq, Repr

/-- One host transaction. -/
structure Transaction where
  /-- byte offset from the block's base -/
  addr : Nat
  access : Access
deriving DecidableEq, Repr

/-- The block's answer to a transaction: OKAY (`error = none`) or ERROR, and the data. The data of a one-byte read
stand in bits 7:0; the data of a write and of an ERROR are 0 (R60). -/
structure Response where
  error : Option BusError
  data : Word
deriving DecidableEq, Repr

/-- One entry of the total order of R73. -/
inductive Event where
  /-- the host performs a transaction -/
  | host (t : Transaction)
  /-- the engine takes its completing step, if it has one (60_exceptions.md R193) -/
  | engine
  /-- the platform raises `Reset` (70_reset_and_hazards.md R220) -/
  | reset
deriving DecidableEq, Repr

/-! ### The state -/

/-- The machine. Each field's docstring names its register or rule. -/
structure State where
  /-- the parameters, constants of the hardware (R6, R7, R41) -/
  params : Params
  /-- `CMD` (R26) -/
  cmd : Word
  /-- `STATUS.BUSY` (R27) -/
  busy : Bool
  /-- `STATUS.DONE` (R27) -/
  done : Bool
  /-- `STATUS.HVALID` (R27, R35) -/
  hvalid : Bool
  /-- `STATUS.ERR` (R27, R194) -/
  err : ErrCode
  /-- `A_W` (R28) -/
  aW : Dim
  /-- `A_H` (R28) -/
  aH : Dim
  /-- `B_W` (R29) -/
  bW : Dim
  /-- `B_H` (R29) -/
  bH : Dim
  /-- `O_W` (R30) -/
  oW : Dim
  /-- `O_H` (R30) -/
  oH : Dim
  /-- `LOW` (R31) -/
  low : Sample
  /-- `HIGH` (R31) -/
  high : Sample
  /-- `HIST[0..255]` (R33), each a `CNT_W`-bit count zero-extended to a word -/
  bins : Vector Word 256
  /-- sample memory A (R37) -/
  memA : Memory
  /-- sample memory B (R37) -/
  memB : Memory
  /-- sample memory O (R37) -/
  memO : Memory
  /-- the model's own: how many resets have happened (log 5) -/
  epoch : Nat
  /-- the model's own: what host, engine and platform do next, in the order of R73 (log 2) -/
  events : List Event
  /-- the model's own: the responses the host has received, newest first (log 8) -/
  responses : List Response
deriving DecidableEq, Repr

/-- Why the machine stops. The block itself has "no fault that stops the block" (R190): both are stops of the model,
outside what the spec describes. -/
inductive Fault where
  /-- Raised by a host transaction whose offset is not below `4 * 2^ADDR_W`: R60 gives the interface no such
  transaction (log 9). Safe: the model stops. -/
  | offsetOutsideBlock (addr : Nat)
  /-- Raised by a completing step in a state with `BUSY = 1` that acceptance (R191) never leaves: the latched word is no
  command, or the dimensions of grid A fail R198. No run from a reset reaches one (log 10). Safe: the model stops. -/
  | inconsistentBusy
deriving DecidableEq, Repr

/-- Why an instruction has no meaning. -/
inductive Refusal where
  /-- Raised by an arm of `exec` that has no meaning yet: none in this model. Safe. -/
  | notModelled (mnemonic : String)
deriving DecidableEq, Repr

/-- The outcome of a step of this machine. -/
abbrev Outcome := Host.Outcome State Fault Refusal

/-- The bins after reset number `epoch`: arbitrary values below `2^CNT_W` (R42; log 4). -/
def resetBins (p : Params) (epoch : Nat) : Vector Word 256 :=
  ⟨((List.range 256).map (fun k => BitVec.ofNat 32 (Config.resetBin epoch k % 2 ^ p.cntW))).toArray, by simp⟩

/-- The state the table of 10_state.md R42 describes, after reset number `epoch` of a machine with parameters `p`. -/
def State.afterReset (p : Params) (epoch : Nat) : State where
  params := p
  cmd := 0
  busy := false
  done := false
  hvalid := false
  err := .none
  aW := 0
  aH := 0
  bW := 0
  bH := 0
  oW := 0
  oH := 0
  low := 0
  high := 0
  bins := resetBins p epoch
  memA := []
  memB := []
  memO := []
  epoch := epoch
  events := []
  responses := []

/-- The machine right after its first reset, with the default parameters (R42, R6) and no transaction under way. -/
def State.reset : State := State.afterReset Params.default 0

end Sys2Proof.Machine
end

