-- ==== Sys2Proof/Machine/Flags.lean ====
section
/-! DEFINITION. The status flags (10_state.md R27, R35, R43): the only flags of the block. There are no arithmetic
condition codes. -/

namespace Sys2Proof.Machine

/-- The number of an error code (60_exceptions.md R194). -/
def ErrCode.code : ErrCode → Nat
  | .none => 0
  | .illegalOp => 1
  | .badDim => 2
  | .dimMismatch => 3
  | .invalidParam => 4

/-- The word a read of `STATUS` gives: BUSY bit 0, DONE bit 1, HVALID bit 2, ERR bits 11:8, the rest 0 (R27). -/
def State.statusWord (s : State) : Word :=
  BitVec.ofNat 32 (s.busy.toNat + 2 * s.done.toNat + 4 * s.hvalid.toNat + 256 * s.err.code)

/-- A host write of `v` to `STATUS`: written bit 1 clears `DONE`, nothing else happens (R27). -/
def State.writeStatus (v : Word) (s : State) : State := { s with done := s.done && !v.getLsbD 1 }

/-- `STATUS.HVALID <- 0` (R35). -/
def State.clearHvalid (s : State) : State := { s with hvalid := false }

/-- `STATUS.BUSY <- 1` (R191). -/
def State.startBusy (s : State) : State := { s with busy := true }

/-- `STATUS.BUSY <- 0 ; STATUS.DONE <- 1`, the end of every completing step (R193); `ERR` stays. -/
def State.finish (s : State) : State := { s with busy := false, done := true }

/-- `raise CmdError(code)` (60_exceptions.md R196), the block's whole "trap entry": `ERR <- code`, `DONE <- 1`; `BUSY`
remains 0 and nothing else changes. -/
def State.raiseCmdError (code : ErrCode) (s : State) : State := { s with err := code, done := true }

end Sys2Proof.Machine
end

