-- ==== Sys2Proof/Machine/Memory.lean ====
section
/-! DEFINITION. Reading and writing one sample memory (00_scope.md R10, 10_state.md R37), and reading a sample of the
machine. Every access to a sample goes through these. -/

namespace Sys2Proof.Machine

/-- The byte written at index `i` since reset, if one was. -/
def Memory.read? : Memory → Nat → Option Sample
  | [], _ => none
  | c :: m, i => if c.1 = i then some c.2 else Memory.read? m i

/-- `X[i] <- v` (R10), keeping the indices rising. -/
def Memory.write : Memory → Nat → Sample → Memory
  | [], i, v => [(i, v)]
  | c :: m, i, v =>
    if i < c.1 then (i, v) :: c :: m else if i = c.1 then (i, v) :: m else c :: Memory.write m i v

/-- `X[i] <- f i` for every `i` in `0 .. n-1`, the bytes from `n` on untouched: what a loop of writes over a grid
leaves, in one pass (log 13). -/
def Memory.fill (n : Nat) (f : Nat → Sample) (m : Memory) : Memory :=
  (List.range n).map (fun i => (i, f i)) ++ m.filter (fun c => decide (n ≤ c.1))

/-- The bytes written to sample memory `x` since reset. -/
def State.mem (s : State) (x : MemId) : Memory :=
  match x with
  | .A => s.memA
  | .B => s.memB
  | .O => s.memO

/-- `A[i]`, `B[i]` or `O[i]` (R10): the byte written last, and before any write the arbitrary, stable byte of R42. -/
def State.sample (s : State) (x : MemId) (i : Nat) : Sample :=
  ((s.mem x).read? i).getD (Config.resetSample s.epoch x i)

/-- `MemRead(X, i, 4)` (R10): little-endian, `X[i]` in bits 7:0 (20_memory.md R66). -/
def State.sampleWord (s : State) (x : MemId) (i : Nat) : Word :=
  (s.sample x (i + 3) ++ s.sample x (i + 2) ++ s.sample x (i + 1) ++ s.sample x i : BitVec 32)

/-- `MemWrite(X, i, 4, v)` (R10): byte `k` of `v` goes to `X[i+k]` (R66). -/
def Memory.writeWord (m : Memory) (i : Nat) (v : Word) : Memory :=
  (((m.write i (v.extractLsb' 0 8)).write (i + 1) (v.extractLsb' 8 8)).write (i + 2) (v.extractLsb' 16 8)).write
    (i + 3) (v.extractLsb' 24 8)

/-- The bin of intensity `k` among `bins`. -/
def binOf (bins : Vector Word 256) (k : Sample) : Word := bins[k.toNat]'(k.isLt)

/-- `HIST[k]` (R10). -/
def State.bin (s : State) (k : Sample) : Word := binOf s.bins k

end Sys2Proof.Machine
end

