-- ==== Sys2Proof/Machine/Operands.lean ====
section
/-! DEFINITION. The operands of the commands (30_encoding.md R94): grid A, grid B, the kernel-library entries. Grid
geometry (10_state.md R37, R38), interior pixels (42_convolution.md R131), the nine-sample window and its weighted sum
(R130, R135). -/

namespace Sys2Proof.Machine

/-! ### Grids -/

/-- `A_W * A_H`, formed without wrap (60_exceptions.md R191). -/
def State.gridSize (s : State) : Nat := s.aW.toNat * s.aH.toNat

/-- The check of R198 is passed: `A_W`, `A_H` nonzero and the grid fits the memory. -/
def State.gridOk (s : State) : Bool :=
  decide (s.aW ≠ 0) && decide (s.aH ≠ 0) && decide (s.gridSize ≤ s.params.maxSamples)

/-- The check of R199 is passed: `(B_W, B_H) = (A_W, A_H)`. -/
def State.gridsMatch (s : State) : Bool := decide (s.bW = s.aW) && decide (s.bH = s.aH)

/-- The samples of grid A in row-major order: `A[0 .. A_W*A_H-1]` (R37). -/
def State.gridSamples (s : State) : List Sample := (List.range s.gridSize).map (s.sample .A)

/-- `1 ≤ row ≤ height-2` and `1 ≤ col ≤ width-2` (R131). -/
def interior (width height row col : Nat) : Bool :=
  decide (1 ≤ row) && decide (row + 2 ≤ height) && decide (1 ≤ col) && decide (col + 2 ≤ width)

/-! ### The stencil's operand -/

/-- `input[row+m][col+n]` for `m = r-1`, `n = c-1`, at flat index `(row+m)*width + (col+n)` (R71); used for interior
pixels, where no index is negative. -/
def neighbour (sample : Nat → Sample) (width row col : Nat) (r c : Fin 3) : Sample :=
  sample ((row + r.val - 1) * width + (col + c.val - 1))

/-- `S(q,row,col)` of R135: the exact signed sum of the nine products, the kernel not flipped (R130). -/
def stencilSum (K : Kernel) (sample : Nat → Sample) (width row col : Nat) : Int :=
  (([0, 1, 2] : List (Fin 3)).map (fun r =>
    (([0, 1, 2] : List (Fin 3)).map (fun c =>
      ((neighbour sample width row col r c).toNat : Int) * K.coef r c)).sum)).sum

end Sys2Proof.Machine
end

