-- ==== Sys2Proof/Machine/Ops.lean ====
section
/-! DEFINITION. The shared operations of the commands: writing the output grid and the histogram, latching a command
word, the acceptance checks with the command errors they raise, and the completing step's frame
(60_exceptions.md R191, R193, R196 to R199). There is no return from an error: R201. -/

namespace Sys2Proof.Machine

/-! ### Writes -/

/-- The bus answers OKAY with `data`. -/
def Response.okay (data : Word) : Response := ⟨none, data⟩

/-- The bus answers ERROR: read data 0 (20_memory.md R64). -/
def Response.err (e : BusError) : Response := ⟨some e, 0⟩

/-- The host receives a response. -/
def State.respond (r : Response) (s : State) : State := { s with responses := r :: s.responses }

/-- `O_W <- A_W ; O_H <- A_H` and `O[i] <- pix i` for `i` in `0 .. A_W*A_H-1` (10_state.md R30). -/
def State.putGrid (pix : Nat → Sample) (s : State) : State :=
  { s with oW := s.aW, oH := s.aH, memO := s.memO.fill s.gridSize pix }

/-- The bins, `LOW`, `HIGH` written and `HVALID <- 1` (40_histogram.md R111). -/
def State.putHistogram (bins : Vector Word 256) (low high : Sample) (s : State) : State :=
  { s with bins := bins, low := low, high := high, hvalid := true }

/-- The first lines of an acceptance: `CMD <- w ; DONE <- 0 ; ERR <- 0` (R191). -/
def State.latchCommand (w : Word) (s : State) : State := { s with cmd := w, done := false, err := .none }

/-! ### A command: its acceptance while idle, its completing step while busy (log 1) -/

/-- Run the part of a command that the machine's phase calls for. -/
def command (accept complete : State → Outcome) (s : State) : Outcome :=
  if s.busy then complete s else accept s

/-- The checks of R191 for a command that reads grid A only; `start` is what acceptance then does. -/
def acceptGrid (start : State → State) (s : State) : Outcome :=
  if s.gridOk then .next (start s) else .next (s.raiseCmdError .badDim)

/-- The checks of R191 for `MAX`, which reads grid B too: `BAD_DIM` before `DIM_MISMATCH` (R200). -/
def acceptGrids (start : State → State) (s : State) : Outcome :=
  if s.gridOk then
    if s.gridsMatch then .next (start s) else .next (s.raiseCmdError .dimMismatch)
  else .next (s.raiseCmdError .badDim)

/-- The completing step of a grid-producing command whose output sample at flat index `i` is `pix i`. -/
def completeGrid (pix : State → Nat → Sample) (s : State) : Outcome :=
  if s.gridOk then .next (s.putGrid (pix s)).finish else .fault .inconsistentBusy

/-- A grid-producing command that reads grid A only. -/
def gridCommand (pix : State → Nat → Sample) (s : State) : Outcome :=
  command (acceptGrid State.startBusy) (completeGrid pix) s

/-! ### Reset (70_reset_and_hazards.md R220, R221) -/

/-- `Reset`: every piece of state takes the value of R42 and the contents of the memories and bins are drawn anew; what
host, engine and platform do next, and what the host has received, is not the block's. -/
def State.takeReset (s : State) : State :=
  { State.afterReset s.params (s.epoch + 1) with events := s.events, responses := s.responses }

end Sys2Proof.Machine
end

