-- ==== Sys2Proof/Machine/Bus.lean ====
section
/-! DEFINITION. The host interface (20_memory.md R60 to R70): the address map, the cases answered ERROR, what each
location reads as, and what a write does. A write to `CMD`, which issues a command, is in Machine/Issue.lean. -/

namespace Sys2Proof.Machine

/-! ### Address map (R61, 10_state.md R23) -/

/-- The registers, in the order of their offsets. -/
inductive Reg where
  | id
  | cap
  | cmd
  | status
  | aW
  | aH
  | bW
  | bH
  | oW
  | oH
  | low
  | high
deriving DecidableEq, Repr

/-- What an offset belongs to. -/
inductive Region where
  | register (r : Reg)
  /-- `HIST[k]` -/
  | bin (k : Sample)
  /-- word `j` of `KLIB[q]` -/
  | klib (q : Fin 8) (j : Nat)
  /-- `X[i]` -/
  | window (x : MemId) (i : Nat)
  | unmapped
deriving DecidableEq, Repr

/-- The registers at offsets 0x00, 0x04, …, 0x2C (R23). -/
def registers : List Reg := [.id, .cap, .cmd, .status, .aW, .aH, .bW, .bH, .oW, .oH, .low, .high]

/-- The region of a byte offset below `4 * 2^ADDR_W` (R61). -/
def regionOf (p : Params) (addr : Nat) : Region :=
  if addr < 0x30 then
    match registers[addr / 4]? with
    | some r => .register r
    | none => .unmapped
  else if addr < 0x400 then .unmapped
  else if addr < 0x800 then .bin (BitVec.ofNat 8 ((addr - 0x400) / 4))
  else if addr < 0xA00 then .klib (Fin.ofNat 8 ((addr - 0x800) / 0x40)) ((addr - 0x800) % 0x40 / 4)
  else if addr < p.maxSamples then .unmapped
  else if addr < 2 * p.maxSamples then .window .A (addr - p.maxSamples)
  else if addr < 3 * p.maxSamples then .window .B (addr - 2 * p.maxSamples)
  else .window .O (addr - 3 * p.maxSamples)

/-! ### Cases answered ERROR (R64) -/

/-- The transaction is a write. -/
def Access.isWrite : Access → Bool
  | .read1 => false
  | .read4 => false
  | .write1 _ => true
  | .write4 _ => true

/-- The number of bytes of the transaction. -/
def Access.size : Access → Nat
  | .read1 => 1
  | .read4 => 4
  | .write1 _ => 1
  | .write4 _ => 4

/-- The registers that can be read while `BUSY = 1` (R70). -/
def Region.pollable : Region → Bool
  | .register .id => true
  | .register .cap => true
  | .register .cmd => true
  | .register .status => true
  | _ => false

/-- Registers, bins and kernel words take aligned words only (R63); a sample window takes bytes and aligned words
(R65). -/
def Region.sizeOk (addr size : Nat) : Region → Bool
  | .window _ _ => decide (size = 1) || decide (addr % 4 = 0)
  | _ => decide (size = 4) && decide (addr % 4 = 0)

/-- The locations the host cannot write (R64, case 4). -/
def Region.readOnly : Region → Bool
  | .register .id => true
  | .register .cap => true
  | .register .oW => true
  | .register .oH => true
  | .register .low => true
  | .register .high => true
  | .bin _ => true
  | .klib _ _ => true
  | .window .O _ => true
  | _ => false

/-- The case of R64 that applies first, if one does (log 12). -/
def State.busError (s : State) (t : Transaction) : Option BusError :=
  let r := regionOf s.params t.addr
  if s.busy && !(!t.access.isWrite && r.pollable) then some .busy
  else if r = .unmapped then some .unmapped
  else if !r.sizeOk t.addr t.access.size then some .sizeOrAlignment
  else if t.access.isWrite && r.readOnly then some .readOnly
  else none

/-! ### Reads -/

/-- `CAP` (10_state.md R25). -/
def Params.capWord (p : Params) : Word := BitVec.ofNat 32 (p.addrW + 0x100 * p.dimW + 0x10000 * p.cntW)

/-- Word `j` of a kernel-library entry (10_state.md R36). -/
def klibWord (K : Kernel) (j : Nat) : Word :=
  if h : j < 9 then K.num[j].signExtend 32
  else if j = 9 then K.den.setWidth 32
  else if j = 10 then BitVec.ofNat 32 K.policy.code
  else if j = 11 then K.scale.setWidth 32
  else 0

/-- The word a register reads as (R23 to R31). -/
def State.readReg (s : State) : Reg → Word
  | .id => 0x48453031
  | .cap => Params.capWord s.params
  | .cmd => s.cmd
  | .status => s.statusWord
  | .aW => s.aW.setWidth 32
  | .aH => s.aH.setWidth 32
  | .bW => s.bW.setWidth 32
  | .bH => s.bH.setWidth 32
  | .oW => s.oW.setWidth 32
  | .oH => s.oH.setWidth 32
  | .low => s.low.setWidth 32
  | .high => s.high.setWidth 32

/-- The word a location reads as. -/
def State.readWord (s : State) : Region → Word
  | .register r => s.readReg r
  | .bin k => s.bin k
  | .klib q j => klibWord (s.params.kernel q) j
  | .window x i => s.sampleWord x i
  | .unmapped => 0

/-- The byte a location of a sample window reads as, in bits 7:0; no other location has byte reads (R63). -/
def State.readByte (s : State) : Region → Word
  | .window x i => (s.sample x i).setWidth 32
  | _ => 0

/-! ### Writes (R69) -/

/-- The bits a dimension register keeps of a written word: `DIM_W-1:0` (10_state.md R28, R32). -/
def dimOf (p : Params) (v : Word) : Dim := BitVec.ofNat 16 (v.toNat % 2 ^ p.dimW)

/-- A sample memory takes new contents. -/
def State.setMem (x : MemId) (m : Memory) (s : State) : State :=
  match x with
  | .A => { s with memA := m, hvalid := false }
  | .B => { s with memB := m }
  | .O => { s with memO := m }

/-- A word written to a location other than `CMD` and the read-only ones. Writes of `A_W`, `A_H` and of any byte of the
A window clear `HVALID` (10_state.md R35). -/
def State.writeWord (v : Word) (s : State) : Region → State
  | .register .status => s.writeStatus v
  | .register .aW => { s with aW := dimOf s.params v, hvalid := false }
  | .register .aH => { s with aH := dimOf s.params v, hvalid := false }
  | .register .bW => { s with bW := dimOf s.params v }
  | .register .bH => { s with bH := dimOf s.params v }
  | .window x i => s.setMem x ((s.mem x).writeWord i v)
  | _ => s

/-- A byte written to a location of the A or B window. -/
def State.writeByte (v : BitVec 8) (s : State) : Region → State
  | .window x i => s.setMem x ((s.mem x).write i v)
  | _ => s

end Sys2Proof.Machine
end

