-- ==== Sys2Proof/Machine/Binarize.lean ====
section
/-! DEFINITION. The binarization unit: `BIN #T` (41_binarization.md R120 to R125). -/

namespace Sys2Proof.Machine

/-- `BinLut(T, k) = 0 if k < T else 255` (R122), an unsigned comparison. -/
def binLut (t k : Sample) : Sample := if k.toNat < t.toNat then 0 else 255

/-- `BIN #T` (R121): `O[i] <- BinLut(T, A[i])`, border pixels like any other. -/
def execBin (t : Sample) (s : State) : Outcome :=
  gridCommand (fun s i => binLut t (s.sample .A i)) s

end Sys2Proof.Machine
end

