-- ==== Sys2Proof/Machine/Stencil.lean ====
section
/-! DEFINITION. The 3x3 stencil unit: the eight `CONV_*` commands (42_convolution.md R130 to R151). All arithmetic is
exact integer arithmetic (R151). -/

namespace Sys2Proof.Machine

/-- `tdiv(a, b)` for `b > 0`: division truncating toward zero (00_scope.md R9). -/
def tdiv (a : Int) (b : Nat) : Int := Int.tdiv a b

/-- The value of `Post(K, S)` as an integer: R136, R137 or R138 by the kernel's policy. -/
def postInt (K : Kernel) (S : Int) : Int :=
  match K.policy with
  | .direct => tdiv S K.den.toNat
  | .scaledMagnitude => ((tdiv S K.den.toNat).natAbs / K.scale.toNat : Nat)
  | .clamped =>
    if S < 0 then 0 else if 255 * (K.den.toNat : Int) ≤ S then 255 else tdiv S K.den.toNat

/-- `Post(K, S)` as a sample. With a well-formed library the integer lies in 0 to 255 (R136 to R138, R204), so nothing
is cut off. -/
def post (K : Kernel) (S : Int) : Sample := BitVec.ofInt 8 (postInt K S)

/-- `ConvPix(q, row, col)` (R139). -/
def State.convPix (s : State) (q : Fin 8) (row col : Nat) : Sample :=
  post (s.params.kernel q) (stencilSum (s.params.kernel q) (s.sample .A) s.aW.toNat row col)

/-- The output sample at flat index `i` of a stencil: the computed value at an interior pixel, 0 on the border
(R131, R132). -/
def State.stencilAt (s : State) (value : Nat → Nat → Sample) (i : Nat) : Sample :=
  let row := i / s.aW.toNat
  let col := i % s.aW.toNat
  if interior s.aW.toNat s.aH.toNat row col then value row col else 0

/-- The output grid of `ConvGrid(q)` (R139). -/
def State.convGrid (q : Fin 8) (s : State) (i : Nat) : Sample := s.stencilAt (s.convPix q) i

/-- `CONV_AVG`: `ConvGrid(0)` (R140). -/
def execConvAvg (s : State) : Outcome := gridCommand (State.convGrid 0) s

/-- `CONV_GAUSS`: `ConvGrid(1)` (R141). -/
def execConvGauss (s : State) : Outcome := gridCommand (State.convGrid 1) s

/-- `CONV_LAP`: `ConvGrid(2)` (R142). -/
def execConvLap (s : State) : Outcome := gridCommand (State.convGrid 2) s

/-- `CONV_PRWX`: `ConvGrid(4)` (R143). -/
def execConvPrwx (s : State) : Outcome := gridCommand (State.convGrid 4) s

/-- `CONV_PRWY`: `ConvGrid(5)` (R144). -/
def execConvPrwy (s : State) : Outcome := gridCommand (State.convGrid 5) s

/-- `CONV_SBLX`: `ConvGrid(6)` (R145). -/
def execConvSblx (s : State) : Outcome := gridCommand (State.convGrid 6) s

/-- `CONV_SBLY`: `ConvGrid(7)` (R146). -/
def execConvSbly (s : State) : Outcome := gridCommand (State.convGrid 7) s

/-- `CONV_HPF`: `ConvGrid(3)` (R147). -/
def execConvHpf (s : State) : Outcome := gridCommand (State.convGrid 3) s

end Sys2Proof.Machine
end

