-- ==== Sys2Proof/Machine/Combiner.lean ====
section
/-! DEFINITION. The edge-magnitude combiner: `MAX`, `EDGE_PRW`, `EDGE_SBL` (43_edge_combiner.md R160 to R165). -/

namespace Sys2Proof.Machine

/-- The greater of two unsigned samples (R165). -/
def sampleMax (a b : Sample) : Sample := if a.toNat < b.toNat then b else a

/-- `MAX` (R160): `O[i] <- max(A[i], B[i])`; the only command that checks grid B. -/
def execMax (s : State) : Outcome :=
  command (acceptGrids State.startBusy) (completeGrid (fun s i => sampleMax (s.sample .A i) (s.sample .B i))) s

/-- The output grid of a combined edge command with the kernels `x` and `y` (R161, R162). -/
def State.edgeGrid (x y : Fin 8) (s : State) (i : Nat) : Sample :=
  s.stencilAt (fun row col => sampleMax (s.convPix x row col) (s.convPix y row col)) i

/-- `EDGE_PRW`: kernels 4 and 5 (R161). -/
def execEdgePrw (s : State) : Outcome := gridCommand (State.edgeGrid 4 5) s

/-- `EDGE_SBL`: kernels 6 and 7 (R162). -/
def execEdgeSbl (s : State) : Outcome := gridCommand (State.edgeGrid 6 7) s

end Sys2Proof.Machine
end

