-- ==== Sys2Proof/Machine/Histogram.lean ====
section
/-! DEFINITION. The histogram accumulator: `HIST` (40_histogram.md R110 to R116). -/

namespace Sys2Proof.Machine

/-- All 256 intensities, ascending. -/
def intensities : List Sample := (List.range 256).map (BitVec.ofNat 8)

/-- Every bin 0. -/
def clearBins : Vector Word 256 := Vector.replicate 256 0

/-- `HIST[k] <- HIST[k] + 1` on `CNT_W`-bit counters (R116). -/
def incrementBin (cntW : Nat) (bins : Vector Word 256) (k : Sample) : Vector Word 256 :=
  bins.set k.toNat (BitVec.ofNat 32 (((binOf bins k).toNat + 1) % 2 ^ cntW)) k.isLt

/-- The two loops of R111: clear every bin, then count every sample. -/
def buildBins (cntW : Nat) (samples : List Sample) : Vector Word 256 :=
  samples.foldl (incrementBin cntW) clearBins

/-- `min { k : HIST[k] != 0 }` -/
def lowestOccupied (bins : Vector Word 256) : Option Sample := intensities.find? (fun k => binOf bins k != 0)

/-- `max { k : HIST[k] != 0 }` -/
def highestOccupied (bins : Vector Word 256) : Option Sample := intensities.reverse.find? (fun k => binOf bins k != 0)

/-- The completing step of `HIST` (R111). With grid A valid both sets are non-empty (R112). -/
def completeHist (s : State) : Outcome :=
  if s.gridOk then
    let bins := buildBins s.params.cntW s.gridSamples
    match lowestOccupied bins, highestOccupied bins with
    | some low, some high => .next (s.putHistogram bins low high).finish
    | _, _ => .fault .inconsistentBusy
  else .fault .inconsistentBusy

/-- `HIST` (R111): acceptance clears `HVALID` together with `BUSY <- 1` (10_state.md R35). -/
def execHist (s : State) : Outcome :=
  command (acceptGrid (fun s => s.clearHvalid.startBusy)) completeHist s

end Sys2Proof.Machine
end

