-- ==== Sys2Proof/Machine/Dispatch.lean ====
section
/-! DEFINITION. One arm per command of 30_encoding.md R96. -/

namespace Sys2Proof.Machine

def exec (i : Instr) (s : State) : Host.Outcome State Fault Refusal :=
  match i with
  | .hist => Sys2Proof.Machine.execHist s
  | .bin t => Sys2Proof.Machine.execBin t s
  | .convAvg => Sys2Proof.Machine.execConvAvg s
  | .convGauss => Sys2Proof.Machine.execConvGauss s
  | .convLap => Sys2Proof.Machine.execConvLap s
  | .convPrwx => Sys2Proof.Machine.execConvPrwx s
  | .convPrwy => Sys2Proof.Machine.execConvPrwy s
  | .edgePrw => Sys2Proof.Machine.execEdgePrw s
  | .convSblx => Sys2Proof.Machine.execConvSblx s
  | .convSbly => Sys2Proof.Machine.execConvSbly s
  | .edgeSbl => Sys2Proof.Machine.execEdgeSbl s
  | .convHpf => Sys2Proof.Machine.execConvHpf s
  | .max => Sys2Proof.Machine.execMax s

end Sys2Proof.Machine
end

