-- ==== Sys2Proof/Machine/Issue.lean ====
section
/-! DEFINITION. What one agent's step does: a host transaction, with the issue of a command (60_exceptions.md R191),
and the engine's completing step (R193). -/

namespace Sys2Proof.Machine

/-- Acceptance (R191): the word is latched, an illegal one raises `ILLEGAL_OP` (R197), a command runs its checks. -/
def issueCommand (w : Word) (s : State) : Outcome :=
  match decode w with
  | .instr i => exec i (s.latchCommand w)
  | .illegal _ => .next ((s.latchCommand w).raiseCmdError .illegalOp)

/-- One host transaction (20_memory.md R60, R64, R69). -/
def hostStep (t : Transaction) (s : State) : Outcome :=
  if 4 * s.params.maxSamples ≤ t.addr then .fault (.offsetOutsideBlock t.addr)
  else match s.busError t with
    | some e => .next (s.respond (.err e))
    | none =>
      match t.access, regionOf s.params t.addr with
      | .read1, r => .next (s.respond (.okay (s.readByte r)))
      | .read4, r => .next (s.respond (.okay (s.readWord r)))
      | .write1 v, r => .next ((s.writeByte v r).respond (.okay 0))
      | .write4 w, .register .cmd => issueCommand w (s.respond (.okay 0))
      | .write4 v, r => .next ((s.writeWord v r).respond (.okay 0))

/-- The engine's step (R193): the completing step of the command latched in `CMD` while `BUSY = 1`; while `BUSY = 0`
the engine touches nothing (10_state.md R39). -/
def engineStep (s : State) : Outcome :=
  if s.busy then
    match decode s.cmd with
    | .instr i => exec i s
    | .illegal _ => .fault .inconsistentBusy
  else .next s

end Sys2Proof.Machine
end

