-- ==== Sys2Proof/Machine/Step.lean ====
section
/-! DEFINITION. One step of the machine: the next entry of the total order of 20_memory.md R73 (log 2). The block has no
program counter and fetches nothing (10_state.md R22); a command reaches it as a host write to `CMD`. -/

namespace Sys2Proof.Machine

/-- One step. When the scheduled entries are used up, the engine still has its step while `BUSY = 1` (the fairness of
60_exceptions.md R193), and an idle block does nothing. -/
def step (s : State) : Host.Outcome State Fault Refusal :=
  match s.events with
  | .host t :: rest => hostStep t { s with events := rest }
  | .engine :: rest => engineStep { s with events := rest }
  | .reset :: rest => .next { s with events := rest }.takeReset
  | [] => engineStep s

/-- `s` with the host about to write the command word `w` to `CMD` (offset 0x08) and the block idle, so that the write is
accepted (30_encoding.md R90; log 11). -/
def State.withFetchWord (s : State) (nbits w : Nat) : State :=
  { s with
    busy := false
    events := .host ⟨0x08, .write4 (BitVec.ofNat 32 (w % 2 ^ nbits))⟩ :: s.events }

end Sys2Proof.Machine
end

