-- ==== Sys2Proof/Machine/Reference.lean ====
section
/-! DEFINITION. The host-side reference functions (48_reference_functions.md R170 to R180): what the HOST computes from
grids it holds and from the histogram it has read. The block reads and writes nothing here and no step uses this file.
Every quotient is exact and truncates toward zero (R170). -/

namespace Sys2Proof.Machine

/-- `clamp(v, 0, 255)` cast to a sample (00_scope.md R9). -/
def clampSample (v : Int) : Sample := BitVec.ofInt 8 (min (max v 0) 255)

/-- Inverse (R171). -/
def inverse (grid : List Sample) : List Sample := grid.map (fun s => 255 - s)

/-- Brightness(delta) (R172): saturates at both bounds. -/
def brightness (delta : Int) (grid : List Sample) : List Sample := grid.map (fun s => clampSample (s.toNat + delta))

/-- Contrast(p/q) (R173): a negative factor, and a `q` that is not positive, is rejected and no output is produced
(log 16). -/
def contrast (p : Int) (q : Nat) (grid : List Sample) : Option (List Sample) :=
  if p < 0 ∨ q = 0 then none else some (grid.map (fun s => BitVec.ofNat 8 (min (s.toNat * p.toNat / q) 255)))

/-- Stretching (R174), and its degenerate case `Low = High`, the unmodified input (R175). -/
def stretching (low high : Sample) (grid : List Sample) : List Sample :=
  if low = high then grid
  else grid.map (fun s => BitVec.ofInt 8 (tdiv (((s.toNat : Int) - low.toNat) * 255) (high.toNat - low.toNat)))

/-- The cumulative histogram `C(k)` of R176. -/
def cumulative (H : Nat → Nat) (k : Nat) : Nat := ((List.range (k + 1)).map H).sum

/-- The table `L(k) = fdiv(255 * C(k), n)` of R176. -/
def equalizationLut (H : Nat → Nat) (n k : Nat) : Sample := BitVec.ofNat 8 (255 * cumulative H k / n)

/-- Equalization (R176), `n` the number of samples of the grid. -/
def equalization (H : Nat → Nat) (n : Nat) (grid : List Sample) : List Sample :=
  grid.map (fun s => equalizationLut H n s.toNat)

/-! ### The Gonzalez estimator (R177, R178) -/

/-- The intensities `lo .. hi`; none when `hi < lo`. -/
def intensityRange (lo hi : Nat) : List Nat := (List.range (hi + 1)).filter (fun k => decide (lo ≤ k))

/-- The mean of a group: `fdiv(Σ k*H[k], Σ H[k])`, the count guarded at minimum 1. -/
def groupMean (H : Nat → Nat) (lo hi : Nat) : Nat :=
  let ks := intensityRange lo hi
  (ks.map (fun k => k * H k)).sum / max ((ks.map H).sum) 1

/-- One pass of the loop: the new threshold `T'`. -/
def gonzalezStep (H : Nat → Nat) (low high t : Nat) : Nat := (groupMean H low t + groupMean H (t + 1) high) / 2

/-- The loop of R178 with at most `passes` passes. -/
def gonzalezLoop (H : Nat → Nat) (low high : Nat) : (passes : Nat) → (t : Nat) → Nat
  | 0, t => t
  | n + 1, t =>
    let t' := gonzalezStep H low high t
    if ((t' : Int) - t).natAbs < 2 then t' else gonzalezLoop H low high n t'

/-- `Gonzalez(H, Low, High)` (R178), with the guard for `Low = High` and the cap of 256 passes. -/
def gonzalez (H : Nat → Nat) (low high : Nat) : Nat :=
  if low = high then low else gonzalezLoop H low high 256 ((low + high) / 2)

/-! ### Gonzalez-Binarization (R179) -/

/-- The histogram of a grid: how many of its samples have intensity `k` (00_scope.md R14). -/
def gridHistogram (grid : List Sample) (k : Nat) : Nat := grid.countP (fun s => decide (s.toNat = k))

/-- `Low`: the smallest intensity with a nonzero count. -/
def gridLow (grid : List Sample) : Nat := ((List.range 256).find? (fun k => gridHistogram grid k != 0)).getD 0

/-- `High`: the largest intensity with a nonzero count. -/
def gridHigh (grid : List Sample) : Nat := ((List.range 256).reverse.find? (fun k => gridHistogram grid k != 0)).getD 0

/-- `T <- Gonzalez(H, Low, High)` from the histogram of the grid itself. -/
def gridThreshold (grid : List Sample) : Sample :=
  BitVec.ofNat 8 (gonzalez (gridHistogram grid) (gridLow grid) (gridHigh grid))

/-- Gonzalez-Binarization of a grid: `Binarization(T)` with `T` from the grid's own histogram. As a host program it is
`gbin`. -/
def gonzalezBinarization (grid : List Sample) : List Sample := grid.map (binLut (gridThreshold grid))

end Sys2Proof.Machine
end

