-- ==== Sys2Proof/Machine/Program.lean ====
section
/-! DEFINITION. The notation for host programs and the pseudo-instructions (30_encoding.md R101, R102). A host program is
code of the HOST: it performs transactions and goes on by the responses it gets, so it is written here beside the machine
and is no part of State. Run in turns with the engine and the platform (20_memory.md R73) it acts on the machine by
`step` alone (log 15). -/

namespace Sys2Proof.Machine

/-! ### One transaction (R101) -/

/-- `WR4 offset, value` -/
def wr4 (addr : Nat) (v : Word) : Event := .host ⟨addr, .write4 v⟩

/-- `WR1 offset, value` -/
def wr1 (addr : Nat) (v : BitVec 8) : Event := .host ⟨addr, .write1 v⟩

/-- `RD4 offset` -/
def rd4 (addr : Nat) : Event := .host ⟨addr, .read4⟩

/-- `RD1 offset` -/
def rd1 (addr : Nat) : Event := .host ⟨addr, .read1⟩

/-- A mnemonic line: `WR4 CMD, <command word>`. -/
def command4 (i : Instr) : Event := wr4 0x08 (encode i)

/-- The offset `x+i` of R101: `A+i`, `B+i` or `O+i`. -/
def windowOffset (p : Params) (x : MemId) (i : Nat) : Nat :=
  match x with
  | .A => p.maxSamples + i
  | .B => 2 * p.maxSamples + i
  | .O => 3 * p.maxSamples + i

/-- The offset `HIST+k` of R101. -/
def histOffset (k : Nat) : Nat := 0x400 + 4 * k

/-! ### Host programs -/

/-- A host program that ends with a result of type `α`. -/
inductive HostProgram (α : Type) where
  /-- the program is over -/
  | ret (a : α)
  /-- perform `t`, then go on by its response -/
  | perform (t : Transaction) (next : Response → HostProgram α)
  /-- `WAIT`, then go on: repeat `RD4 STATUS` until the data has bit 0 (`BUSY`) = 0 -/
  | wait (next : HostProgram α)

/-- One program after another. -/
def HostProgram.bind {α β : Type} : HostProgram α → (α → HostProgram β) → HostProgram β
  | .ret a, f => f a
  | .perform t next, f => .perform t (fun r => (next r).bind f)
  | .wait next, f => .wait (next.bind f)

/-- The transaction the program performs next, and how it goes on by the response; none when it is over. `WAIT` reads
`STATUS` (0x0C), and stays where it is as long as the data has bit 0 = 1. -/
def HostProgram.front {α : Type} : HostProgram α → Option (Transaction × (Response → HostProgram α))
  | .ret _ => none
  | .perform t next => some (t, next)
  | .wait next => some (⟨0x0C, .read4⟩, fun r => if r.data.getLsbD 0 then .wait next else next)

/-- Whose step is next in the total order of 20_memory.md R73. -/
inductive Turn where
  | host
  | engine
  | reset
deriving DecidableEq, Repr

/-- The response to the transaction just performed: the newest one. -/
def State.newestResponse (s : State) : Response := s.responses.headD (.okay 0)

/-- A program with the machine it acts on, or why the machine stopped. -/
abbrev Running (α : Type) := Host.Outcome (HostProgram α × State) Fault Refusal

/-- Carry the program on past one outcome of the machine. -/
def resume {α : Type} (next : State → HostProgram α) : Outcome → Running α
  | .next t => .next (next t, t)
  | .fault r => .fault r
  | .refused r => .refused r

/-- One turn: the machine's `step` on the one event of that turn. A program that is over performs nothing. -/
def HostProgram.turn {α : Type} (p : HostProgram α) (s : State) : Turn → Running α
  | .engine => resume (fun _ => p) (step { s with events := [.engine] })
  | .reset => resume (fun _ => p) (step { s with events := [.reset] })
  | .host =>
    match p.front with
    | none => .next (p, s)
    | some (t, next) => resume (fun u => next u.newestResponse) (step { s with events := [.host t] })

/-- A program run through a schedule of turns. -/
def HostProgram.run {α : Type} : List Turn → HostProgram α → State → Running α
  | [], p, s => .next (p, s)
  | c :: cs, p, s =>
    match p.turn s c with
    | .next (q, t) => HostProgram.run cs q t
    | .fault r => .fault r
    | .refused r => .refused r

/-! ### Pieces of programs -/

/-- Transactions whose responses the host does not use. -/
def performAll : List Transaction → HostProgram Unit
  | [] => .ret ()
  | t :: ts => .perform t (fun _ => performAll ts)

/-- Reads, with their data in order. -/
def readAll : List Transaction → HostProgram (List Word)
  | [] => .ret []
  | t :: ts => .perform t (fun r => (readAll ts).bind (fun ds => .ret (r.data :: ds)))

/-- A mnemonic line, then the rest. -/
def issue {α : Type} (i : Instr) (next : HostProgram α) : HostProgram α :=
  .perform ⟨0x08, .write4 (encode i)⟩ (fun _ => next)

/-- The reads `RD4 HIST+k` for k = 0, 1, …, 255 in that order. -/
def binReads : List Transaction := (List.range 256).map (fun k => ⟨histOffset k, .read4⟩)

/-! ### Pseudo-instructions (R102) -/

/-- `WAIT` -/
def waitIdle : HostProgram Unit := .wait (.ret ())

/-- The sample writes of `LOADA` and `LOADB`, from index `i` on: `WR1 x+i, s_i`, where four samples at an index that is a
multiple of 4 may be packed into one `WR4 x+i` (R66); `packed` says at which indices they are. -/
def loadWrites (base : Nat) (packed : Nat → Bool) : (i : Nat) → List Sample → List Transaction
  | i, a :: b :: c :: d :: rest =>
    if packed i then ⟨base + i, .write4 (d ++ c ++ b ++ a : BitVec 32)⟩ :: loadWrites base packed (i + 4) rest
    else
      ⟨base + i, .write1 a⟩ :: ⟨base + (i + 1), .write1 b⟩ :: ⟨base + (i + 2), .write1 c⟩
        :: ⟨base + (i + 3), .write1 d⟩ :: loadWrites base packed (i + 4) rest
  | i, [a, b, c] => [⟨base + i, .write1 a⟩, ⟨base + (i + 1), .write1 b⟩, ⟨base + (i + 2), .write1 c⟩]
  | i, [a, b] => [⟨base + i, .write1 a⟩, ⟨base + (i + 1), .write1 b⟩]
  | i, [a] => [⟨base + i, .write1 a⟩]
  | _, [] => []

/-- `LOADA w, h, s0 s1 …`, with exactly the `w*h` samples `s_0 … s_{w*h-1}`. -/
def loadA (p : Params) (packed : Nat → Bool) (w h : Word) (samples : Vector Sample (w.toNat * h.toNat)) :
    HostProgram Unit :=
  performAll (⟨0x10, .write4 w⟩ :: ⟨0x14, .write4 h⟩ :: loadWrites (windowOffset p .A 0) packed 0 samples.toList)

/-- `LOADB w, h, s0 s1 …`, with exactly the `w*h` samples `s_0 … s_{w*h-1}`. -/
def loadB (p : Params) (packed : Nat → Bool) (w h : Word) (samples : Vector Sample (w.toNat * h.toNat)) :
    HostProgram Unit :=
  performAll (⟨0x18, .write4 w⟩ :: ⟨0x1C, .write4 h⟩ :: loadWrites (windowOffset p .B 0) packed 0 samples.toList)

/-- `READO`: the width and the height read, then the `O_W*O_H` samples of grid O, by the data of the two reads. -/
def readO (p : Params) : HostProgram (Word × Word × List Sample) :=
  .perform ⟨0x20, .read4⟩ (fun w => .perform ⟨0x24, .read4⟩ (fun h =>
    (readAll ((List.range (w.data.toNat * h.data.toNat)).map (fun i => ⟨windowOffset p .O i, .read1⟩))).bind
      (fun ds => .ret (w.data, h.data, ds.map (fun d => d.extractLsb' 0 8)))))

/-- `HISTDUMP`: the pairs `(k, data)` in intensity order. -/
def histDump : HostProgram (List (Nat × Word)) :=
  issue .hist (.wait ((readAll binReads).bind (fun ds => .ret ((List.range 256).zip ds))))

/-- `T = Gonzalez(HIST, LOW, HIGH)` from the data the host has read (48_reference_functions.md R177, R178). -/
def thresholdOf (low high : Word) (bins : List Word) : Sample :=
  BitVec.ofNat 8 (gonzalez (fun k => (bins.getD k 0).toNat) low.toNat high.toNat)

/-- `GBIN` (R179): the threshold is computed from the data of the reads, and the program ends with it. -/
def gbin : HostProgram Sample :=
  issue .hist (.wait (.perform ⟨0x28, .read4⟩ (fun low => .perform ⟨0x2C, .read4⟩ (fun high =>
    (readAll binReads).bind (fun bins =>
      issue (.bin (thresholdOf low.data high.data bins)) (.wait (.ret (thresholdOf low.data high.data bins))))))))

end Sys2Proof.Machine
end

