-- ==== Sys2Proof/Safety.lean ====
section
/-! DEFINITION. What counts as a consistent state and a safe run. `State.Inv` gathers the invariants the spec gives:
10_state.md R28 to R34, R37, 60_exceptions.md R191, R195, 70_reset_and_hazards.md R227. -/

namespace Sys2Proof.Machine

/-- How many samples of grid A have intensity `k` (R34). -/
def State.occurrences (s : State) (k : Sample) : Nat := s.gridSamples.count k

/-- `HIST`, `LOW`, `HIGH` describe the present contents of grid A (R34): every bin is the number of occurrences, `LOW`
and `HIGH` are the least and greatest intensity that occurs. -/
structure State.HistogramCurrent (s : State) : Prop where
  bin_eq : ∀ k, (s.bin k).toNat = s.occurrences k
  low_occurs : s.occurrences s.low ≠ 0
  high_occurs : s.occurrences s.high ≠ 0
  low_least : ∀ k, s.occurrences k ≠ 0 → s.low.toNat ≤ k.toNat
  high_greatest : ∀ k, s.occurrences k ≠ 0 → k.toNat ≤ s.high.toNat

/-- What acceptance (R191) leaves: the latched word is a command, grid A passed R198, for `MAX` grid B passed R199, and
for `HIST` the histogram is not valid. -/
structure State.Accepted (s : State) : Prop where
  grid_ok : s.gridOk = true
  is_command : ∃ i, decode s.cmd = .instr i ∧ (i = .max → s.gridsMatch = true) ∧ (i = .hist → s.hvalid = false)

/-- A dimension register holds a `DIM_W`-bit number (R28, R32). -/
abbrev fitsDim (p : Params) (d : Dim) : Prop := d.toNat < 2 ^ p.dimW

/-- The invariant of the machine. -/
structure State.Inv (s : State) : Prop where
  dims_fit : fitsDim s.params s.aW ∧ fitsDim s.params s.aH ∧ fitsDim s.params s.bW ∧ fitsDim s.params s.bH
    ∧ fitsDim s.params s.oW ∧ fitsDim s.params s.oH
  bins_fit : ∀ k, (s.bin k).toNat < 2 ^ s.params.cntW
  mem_wf : ∀ x, (s.mem x).wf
  mem_within : ∀ x, (s.mem x).within s.params.maxSamples
  busy_flags : s.busy = true → s.done = false ∧ s.err = .none
  busy_accepted : s.busy = true → s.Accepted
  histogram : s.hvalid = true → s.gridOk = true ∧ s.HistogramCurrent
  output : (s.oW = 0 ↔ s.oH = 0) ∧ s.oW.toNat * s.oH.toNat ≤ s.params.maxSamples
  err_named : s.err ≠ .invalidParam

/-- Every transaction the host will perform has an offset R60 allows. -/
def State.offsetsInRange (s : State) : Prop :=
  ∀ t, Event.host t ∈ s.events → t.addr < 4 * s.params.maxSamples

/-- A run of `n` steps is safe when none of them stops the machine. -/
def safeRun (s : State) (n : Nat) : Prop := ∃ t, Host.Core.run core n s = .next t

end Sys2Proof.Machine
end

