-- ==== Sys2Proof/Certificates/Slice0/Obligations.lean ====
section
/-! DEFINITION. The statements for the provers, from the numbered rules of spec/, file by file. -/

namespace Sys2Proof.Statement

open Sys2Proof.Machine

/-! ### Words the statements use -/

/-- Grid A has a valid size: `A_W`, `A_H` nonzero and `A_W*A_H <= 2^ADDR_W` (R198). -/
def GridFits (s : State) : Prop :=
  s.aW ≠ 0 ∧ s.aH ≠ 0 ∧ s.aW.toNat * s.aH.toNat ≤ 2 ^ s.params.addrW

/-- A command has been accepted and its completing step is next (R193). -/
def Ready (s : State) : Prop := s.busy = true ∧ GridFits s

/-- The number of samples of grid A. -/
def size (s : State) : Nat := s.aW.toNat * s.aH.toNat

/-- Everything a grid-producing command leaves alone: all of the state but `O_W`, `O_H`, memory O, `BUSY` and `DONE`,
whose new values it states, and every sample of O beyond the grid. Memory O inside the grid is left to the caller. -/
def GridFrame (s t : State) : Prop :=
  t = { s with oW := s.aW, oH := s.aH, memO := t.memO, busy := false, done := true }
    ∧ ∀ i, size s ≤ i → t.sample .O i = s.sample .O i

/-- The sample of memory `x` at pixel `(row, col)` of a grid of grid A's width, as an integer (R38). -/
def pix (s : State) (x : MemId) (row col : Nat) : Int := (s.sample x (row * s.aW.toNat + col)).toNat

/-- `1 ≤ row ≤ height-2` and `1 ≤ col ≤ width-2` (R131). -/
def Interior (s : State) (row col : Nat) : Prop :=
  1 ≤ row ∧ row + 2 ≤ s.aH.toNat ∧ 1 ≤ col ∧ col + 2 ≤ s.aW.toNat

/-- The outermost ring of the grid (R132). -/
def Border (s : State) (row col : Nat) : Prop :=
  row < s.aH.toNat ∧ col < s.aW.toNat ∧ (row = 0 ∨ row = s.aH.toNat - 1 ∨ col = 0 ∨ col = s.aW.toNat - 1)

/-- From `s`, the host's transaction `a` is answered OKAY with the data `d` and leaves the block as in `t`. -/
def Answers (s : State) (a : Transaction) (d : Word) (t : State) : Prop :=
  ∀ rest, step { s with events := .host a :: rest }
    = .next { t with events := rest, responses := ⟨none, d⟩ :: s.responses }

/-- From `s`, the transaction `a` is answered ERROR `e` with data 0, and nothing else changes. -/
def Rejects (s : State) (a : Transaction) (e : BusError) : Prop :=
  ∀ rest, step { s with events := .host a :: rest }
    = .next { s with events := rest, responses := ⟨some e, 0⟩ :: s.responses }

/-- The state that an accepted `CMD` write of `w` hands to the command: the word latched, `DONE` and `ERR` cleared, the
write answered OKAY (R191). -/
def latched (s : State) (w : Word) : State :=
  { s with cmd := w, done := false, err := .none, responses := ⟨none, 0⟩ :: s.responses }

/-- The eight single-kernel commands and their kernel-library entries (R97). -/
def stencils : List (Instr × Fin 8) :=
  [(.convAvg, 0), (.convGauss, 1), (.convLap, 2), (.convHpf, 3), (.convPrwx, 4), (.convPrwy, 5), (.convSblx, 6),
    (.convSbly, 7)]

/-- The sum of R135 over the window of `(row, col)`, for kernel `K`. -/
def windowSum (s : State) (K : Kernel) (row col : Nat) : Int :=
  ∑ m : Fin 3, ∑ n : Fin 3, pix s .A (row + m.val - 1) (col + n.val - 1) * K.coef m n

/-- The post-processed value of R136, R137, R138 by the kernel's policy, as an integer. -/
def processed (K : Kernel) (S : Int) : Int :=
  match K.policy with
  | .direct => Int.tdiv S K.den.toNat
  | .scaledMagnitude => |Int.tdiv S K.den.toNat| / K.scale.toNat
  | .clamped => if S < 0 then 0 else if S ≥ 255 * K.den.toNat then 255 else S / K.den.toNat

end Sys2Proof.Statement

open Sys2Proof Sys2Proof.Machine Sys2Proof.Statement

/-! ### Encoding (30_encoding.md) -/

/-- Words written out from R96 and the decoding vectors V36 to V40j. -/
def Obligations.DecodeReadsSpecWords : Prop :=
  decode 0x00000003 = .instr .hist ∧ decode 0x00000005 = .instr (.bin 0) ∧ decode 0x0000FF05 = .instr (.bin 255)
    ∧ decode 0x00006405 = .instr (.bin 100) ∧ decode 0x00000008 = .instr .convAvg
    ∧ decode 0x0000000D = .instr .edgePrw ∧ decode 0x00000011 = .instr .convHpf ∧ decode 0x00000012 = .instr .max
    ∧ decode 0x00010005 = .illegal .reservedBits ∧ decode 0x80000008 = .illegal .reservedBits
    ∧ decode 0x00000103 = .illegal .immediate ∧ decode 0x00000000 = .illegal (.reservedOpcode 0)
    ∧ decode 0x00000004 = .illegal (.reservedOpcode 4) ∧ decode 0x00000013 = .illegal (.reservedOpcode 0x13)
    ∧ decode 0x000000FF = .illegal (.reservedOpcode 0xFF)

/-- R96: a word selects a row exactly when `(w AND mask) = match`. -/
def Obligations.DecodeFollowsOpcodeTable : Prop :=
  ∀ w : Word,
    (∀ r ∈ [(Instr.hist, (0x00000003 : Word)), (.convAvg, 0x00000008), (.convGauss, 0x00000009), (.convLap, 0x0000000A),
        (.convPrwx, 0x0000000B), (.convPrwy, 0x0000000C), (.edgePrw, 0x0000000D), (.convSblx, 0x0000000E),
        (.convSbly, 0x0000000F), (.edgeSbl, 0x00000010), (.convHpf, 0x00000011), (.max, 0x00000012)],
      decode w = .instr r.1 ↔ w &&& 0xFFFFFFFF = r.2)
    ∧ ((∃ t, decode w = .instr (.bin t)) ↔ w &&& 0xFFFF00FF = 0x00000005)
    ∧ ∀ t, decode w = .instr (.bin t) → t = w.extractLsb' 8 8

/-- Decoding an encoded command gives it back, and a word that decodes to a command is that command's only word. -/
def Obligations.EncodeAndDecodeAreInverse : Prop :=
  ∀ (i : Instr) (w : Word), decode w = .instr i ↔ w = encode i

/-- R98: the illegal words, no other, and what writing one while idle does. -/
def Obligations.IllegalWordsRaiseIllegalOp : Prop :=
  ∀ w : Word,
    ((∃ why, decode w = .illegal why) ↔
      w.extractLsb' 16 16 ≠ 0 ∨ (w.extractLsb' 0 8 ≠ 0x05 ∧ w.extractLsb' 8 8 ≠ 0)
        ∨ w.extractLsb' 0 8 ∈ [(0x00 : BitVec 8), 0x01, 0x02, 0x04, 0x06, 0x07]
        ∨ 0x13 ≤ (w.extractLsb' 0 8).toNat)
    ∧ ∀ s : State, s.busy = false → (∃ why, decode w = .illegal why) →
        Answers s ⟨0x08, .write4 w⟩ 0 { s with cmd := w, err := .illegalOp, done := true }
        ∧ Answers { s with cmd := w, err := .illegalOp, done := true } ⟨0x08, .read4⟩ w
            { s with cmd := w, err := .illegalOp, done := true }

/-! ### The step (60_exceptions.md R191, R193) -/

/-- A host write of a command word to `CMD` while idle runs `exec` of the decoded command, on the state with the word
latched. -/
def Obligations.HostCmdWriteRunsDecodedCommand : Prop :=
  ∀ (s : State) (w : Word) (i : Instr) (rest : List Event), s.busy = false → decode w = .instr i →
    step { s with events := .host ⟨0x08, .write4 w⟩ :: rest } = exec i { latched s w with events := rest }

/-- While busy, the engine's turn, or the end of the scheduled entries, runs `exec` of the latched command. -/
def Obligations.EngineStepRunsLatchedCommand : Prop :=
  ∀ (s : State) (i : Instr), s.busy = true → decode s.cmd = .instr i →
    (∀ rest, step { s with events := .engine :: rest } = exec i { s with events := rest })
    ∧ step { s with events := [] } = exec i { s with events := [] }

/-- `withFetchWord` makes the very next step run the command of the word. -/
def Obligations.FetchWordRunsCommand : Prop :=
  ∀ (s : State) (i : Instr),
    decodeTableWord 32 (encode i).toNat = some i
    ∧ step (s.withFetchWord 32 (encode i).toNat) = exec i (latched { s with busy := false } (encode i))

/-- While `BUSY = 0` the engine touches nothing (R39), and with nothing scheduled the block stays as it is (log 2). -/
def Obligations.IdleBlockStaysAsItIs : Prop :=
  ∀ s : State, s.busy = false →
    (∀ rest, step { s with events := .engine :: rest } = .next { s with events := rest })
    ∧ step { s with events := [] } = .next { s with events := [] }

/-! ### Acceptance (60_exceptions.md R191 to R200) -/

/-- R191: a legal command whose checks pass becomes busy; `HIST` also clears `HVALID`. Nothing else changes. -/
def Obligations.AcceptanceStartsCommand : Prop :=
  ∀ (s : State) (i : Instr), s.busy = false → GridFits s → (i = .max → s.bW = s.aW ∧ s.bH = s.aH) →
    exec i s = .next { s with busy := true, hvalid := if i = .hist then false else s.hvalid }

/-- R198: any legal command with a zero dimension or a grid larger than the memory raises `BAD_DIM` whatever grid B is;
so does any command issued before `A_W` and `A_H` are written. -/
def Obligations.BadDimRejectsEveryCommand : Prop :=
  (∀ (s : State) (i : Instr), s.busy = false →
      (s.aW = 0 ∨ s.aH = 0 ∨ 2 ^ s.params.addrW < s.aW.toNat * s.aH.toNat) →
      exec i s = .next { s with err := .badDim, done := true })
  ∧ ∀ (p : Params) (n : Nat) (i : Instr),
      Answers (State.afterReset p n) ⟨0x08, .write4 (encode i)⟩ 0
        { State.afterReset p n with cmd := encode i, err := .badDim, done := true }

/-- R199: `DIM_MISMATCH` is raised exactly by `MAX` with `(B_W, B_H) != (A_W, A_H)`; a matching B is valid too. -/
def Obligations.MaxRejectsMismatchedGrids : Prop :=
  ∀ (s : State), s.busy = false → GridFits s →
    ((s.bW ≠ s.aW ∨ s.bH ≠ s.aH) → exec .max s = .next { s with err := .dimMismatch, done := true })
    ∧ (∀ (i : Instr) (t : State), s.err ≠ .dimMismatch → exec i s = .next t → t.err = .dimMismatch →
        i = .max ∧ (s.bW ≠ s.aW ∨ s.bH ≠ s.aH))
    ∧ (s.bW = s.aW → s.bH = s.aH → s.bW ≠ 0 ∧ s.bH ≠ 0 ∧ s.bW.toNat * s.bH.toNat ≤ 2 ^ s.params.addrW)

/-- R200: of several causes only the first is reported, and an error never makes the block busy (R196, R201). -/
def Obligations.FirstErrorIsReported : Prop :=
  ∀ (s : State) (w : Word) (rest : List Event), s.busy = false →
    ∃ t, step { s with events := .host ⟨0x08, .write4 w⟩ :: rest } = .next t
      ∧ t.cmd = w ∧ t.responses = ⟨none, 0⟩ :: s.responses
      ∧ t.done = decide (t.err ≠ .none) ∧ t.busy = decide (t.err = .none)
      ∧ ((∃ why, decode w = .illegal why) → t.err = .illegalOp)
      ∧ (∀ i, decode w = .instr i → ¬ GridFits s → t.err = .badDim)
      ∧ (∀ i, decode w = .instr i → GridFits s → i = .max → (s.bW ≠ s.aW ∨ s.bH ≠ s.aH) → t.err = .dimMismatch)
      ∧ (∀ i, decode w = .instr i → GridFits s → (i = .max → s.bW = s.aW ∧ s.bH = s.aH) → t.err = .none)

/-! ### Histogram (40_histogram.md) -/

/-- R111: `HIST` completes; every bin becomes the number of samples of its intensity, `LOW` and `HIGH` the least and
greatest intensity that occurs, `HVALID` 1. Only these, `BUSY` and `DONE` change. -/
def Obligations.HistCountsEverySample : Prop :=
  ∀ s : State, Ready s →
    ∃ t, exec .hist s = .next t
      ∧ t = { s with bins := t.bins, low := t.low, high := t.high, hvalid := true, busy := false, done := true }
      ∧ (∀ k, (t.bin k).toNat = (List.range (size s)).countP (fun i => decide (s.sample .A i = k)))
      ∧ (∃ i, i < size s ∧ s.sample .A i = t.low) ∧ (∃ i, i < size s ∧ s.sample .A i = t.high)
      ∧ ∀ i, i < size s → t.low.toNat ≤ (s.sample .A i).toNat ∧ (s.sample .A i).toNat ≤ t.high.toNat

/-- R112. -/
def Obligations.HistBoundsAreTight : Prop :=
  ∀ s : State, Ready s →
    ∃ t, exec .hist s = .next t
      ∧ t.low.toNat ≤ t.high.toNat
      ∧ (∀ i, i < size s → t.low.toNat ≤ (s.sample .A i).toNat ∧ (s.sample .A i).toNat ≤ t.high.toNat)
      ∧ t.bin t.low ≠ 0 ∧ t.bin t.high ≠ 0
      ∧ ∀ k, k.toNat < t.low.toNat ∨ t.high.toNat < k.toNat → t.bin k = 0

/-- R115: the counts of all bins sum to `A_W*A_H`, and the bins depend only on the multiset of grid A's samples. -/
def Obligations.HistConservesAndPermutes : Prop :=
  (∀ s : State, Ready s →
      ∃ t, exec .hist s = .next t ∧ ∑ k : Fin 256, (t.bin (BitVec.ofNat 8 k.val)).toNat = size s)
  ∧ ∀ s u : State, Ready s → Ready u → s.params = u.params →
      List.Perm ((List.range (size s)).map (s.sample .A)) ((List.range (size u)).map (u.sample .A)) →
      ∃ t v, exec .hist s = .next t ∧ exec .hist u = .next v ∧ t.bins = v.bins ∧ t.low = v.low ∧ t.high = v.high

/-- R113: a uniform grid gives `LOW = HIGH`, with no error. -/
def Obligations.UniformGridGivesEqualBounds : Prop :=
  ∀ (s : State) (v : Sample), Ready s → s.err = .none → (∀ i, i < size s → s.sample .A i = v) →
    ∃ t, exec .hist s = .next t ∧ t.low = v ∧ t.high = v ∧ t.err = .none
      ∧ ∀ k, (t.bin k).toNat = if k = v then size s else 0

/-! ### Binarization (41_binarization.md) -/

/-- R121: `BIN #T` completes; every sample of grid O becomes 0 where `A[i] < T`, 255 elsewhere. -/
def Obligations.BinThresholdsEverySample : Prop :=
  ∀ (s : State) (T : Sample), Ready s →
    ∃ t, exec (.bin T) s = .next t ∧ GridFrame s t
      ∧ ∀ i, i < size s → t.sample .O i = if (s.sample .A i).toNat < T.toNat then 0x00 else 0xFF

/-- R124: the 255 samples of the output are counted by the bins from T on, the 0 samples by those below T. -/
def Obligations.BinCountsFollowHistogram : Prop :=
  ∀ (s : State) (T : Sample), Ready s → s.HistogramCurrent →
    ∃ t, exec (.bin T) s = .next t
      ∧ (List.range (size s)).countP (fun i => decide (t.sample .O i = 255))
          = ∑ k : Fin 256, (if T.toNat ≤ k.val then (s.bin (BitVec.ofNat 8 k.val)).toNat else 0)
      ∧ (List.range (size s)).countP (fun i => decide (t.sample .O i = 0))
          = ∑ k : Fin 256, (if k.val < T.toNat then (s.bin (BitVec.ofNat 8 k.val)).toNat else 0)

/-! ### Stencil (42_convolution.md) -/

/-- R97, R130, R135 to R139, R204: for every well-formed library, each single-kernel command stores at every interior
pixel exactly the post-processed weighted sum of the nine samples, as an integer: nothing wraps. -/
def Obligations.StencilStoresProcessedSum : Prop :=
  ∀ (s : State), Ready s → ∀ r ∈ stencils,
    ∃ t, exec r.1 s = .next t ∧ GridFrame s t
      ∧ ∀ row col, Interior s row col →
          pix t .O row col = processed (s.params.kernel r.2) (windowSum s (s.params.kernel r.2) row col)

/-- R132: after every stencil command and every combined edge command each border pixel of O is 0, whatever A and O
held, and bytes beyond the grid are not touched. -/
def Obligations.StencilBorderIsZero : Prop :=
  ∀ (s : State), Ready s →
    ∀ i ∈ [Instr.convAvg, .convGauss, .convLap, .convHpf, .convPrwx, .convPrwy, .convSblx, .convSbly, .edgePrw, .edgeSbl],
    ∃ t, exec i s = .next t
      ∧ (∀ row col, Border s row col → t.sample .O (row * s.aW.toNat + col) = 0)
      ∧ ∀ j, size s ≤ j → t.sample .O j = s.sample .O j

/-- R131: a grid narrower or shorter than 3 is no error, and its whole output is 0, of the same dimensions. -/
def Obligations.SmallGridsGiveZeroOutput : Prop :=
  ∀ (s : State), Ready s → (s.aW.toNat < 3 ∨ s.aH.toNat < 3) →
    ∀ i ∈ [Instr.convAvg, .convGauss, .convLap, .convHpf, .convPrwx, .convPrwy, .convSblx, .convSbly, .edgePrw, .edgeSbl],
    ∃ t, exec i s = .next t ∧ GridFrame s t ∧ ∀ j, j < size s → t.sample .O j = 0

/-- R140, for the default library (R134; coefficients PRESUMED, log 7): the mean of the nine samples, truncated. -/
def Obligations.ConvAvgAveragesWindow : Prop :=
  ∀ s : State, Ready s → s.params.values.klib = defaultKlib →
    ∃ t, exec .convAvg s = .next t ∧ GridFrame s t
      ∧ ∀ row col, Interior s row col →
          pix t .O row col =
            (pix s .A (row - 1) (col - 1) + pix s .A (row - 1) col + pix s .A (row - 1) (col + 1)
              + pix s .A row (col - 1) + pix s .A row col + pix s .A row (col + 1)
              + pix s .A (row + 1) (col - 1) + pix s .A (row + 1) col + pix s .A (row + 1) (col + 1)) / 9

/-- R141, for the default library (log 7): weights 1, 2, 4 over 16. -/
def Obligations.ConvGaussSmoothsWindow : Prop :=
  ∀ s : State, Ready s → s.params.values.klib = defaultKlib →
    ∃ t, exec .convGauss s = .next t ∧ GridFrame s t
      ∧ ∀ row col, Interior s row col →
          pix t .O row col =
            (pix s .A (row - 1) (col - 1) + 2 * pix s .A (row - 1) col + pix s .A (row - 1) (col + 1)
              + 2 * pix s .A row (col - 1) + 4 * pix s .A row col + 2 * pix s .A row (col + 1)
              + pix s .A (row + 1) (col - 1) + 2 * pix s .A (row + 1) col + pix s .A (row + 1) (col + 1)) / 16

/-- R142, for the default library (log 7): eight times the centre less the eight neighbours, magnitude over 8. -/
def Obligations.ConvLapMeasuresLaplacian : Prop :=
  ∀ s : State, Ready s → s.params.values.klib = defaultKlib →
    ∃ t, exec .convLap s = .next t ∧ GridFrame s t
      ∧ ∀ row col, Interior s row col →
          pix t .O row col =
            |8 * pix s .A row col
              - (pix s .A (row - 1) (col - 1) + pix s .A (row - 1) col + pix s .A (row - 1) (col + 1)
                + pix s .A row (col - 1) + pix s .A row (col + 1)
                + pix s .A (row + 1) (col - 1) + pix s .A (row + 1) col + pix s .A (row + 1) (col + 1))| / 8

/-- R147, for the default library (log 7): nine times the centre less the eight neighbours, clamped to 0 to 255. -/
def Obligations.ConvHpfClampsHighPass : Prop :=
  ∀ s : State, Ready s → s.params.values.klib = defaultKlib →
    ∃ t, exec .convHpf s = .next t ∧ GridFrame s t
      ∧ ∀ row col, Interior s row col →
          pix t .O row col =
            min (max (9 * pix s .A row col
              - (pix s .A (row - 1) (col - 1) + pix s .A (row - 1) col + pix s .A (row - 1) (col + 1)
                + pix s .A row (col - 1) + pix s .A row (col + 1)
                + pix s .A (row + 1) (col - 1) + pix s .A (row + 1) col + pix s .A (row + 1) (col + 1))) 0) 255

/-- R143, R144, for the default library (log 7): right column less left column, bottom row less top row, magnitude
over 3. -/
def Obligations.PrewittMeasuresDirections : Prop :=
  ∀ s : State, Ready s → s.params.values.klib = defaultKlib →
    (∃ t, exec .convPrwx s = .next t ∧ GridFrame s t
      ∧ ∀ row col, Interior s row col →
          pix t .O row col =
            |(pix s .A (row - 1) (col + 1) + pix s .A row (col + 1) + pix s .A (row + 1) (col + 1))
              - (pix s .A (row - 1) (col - 1) + pix s .A row (col - 1) + pix s .A (row + 1) (col - 1))| / 3)
    ∧ ∃ t, exec .convPrwy s = .next t ∧ GridFrame s t
      ∧ ∀ row col, Interior s row col →
          pix t .O row col =
            |(pix s .A (row + 1) (col - 1) + pix s .A (row + 1) col + pix s .A (row + 1) (col + 1))
              - (pix s .A (row - 1) (col - 1) + pix s .A (row - 1) col + pix s .A (row - 1) (col + 1))| / 3

/-- R145, R146, for the default library (log 7): as Prewitt with the middle neighbour doubled, magnitude over 4. -/
def Obligations.SobelMeasuresDirections : Prop :=
  ∀ s : State, Ready s → s.params.values.klib = defaultKlib →
    (∃ t, exec .convSblx s = .next t ∧ GridFrame s t
      ∧ ∀ row col, Interior s row col →
          pix t .O row col =
            |(pix s .A (row - 1) (col + 1) + 2 * pix s .A row (col + 1) + pix s .A (row + 1) (col + 1))
              - (pix s .A (row - 1) (col - 1) + 2 * pix s .A row (col - 1) + pix s .A (row + 1) (col - 1))| / 4)
    ∧ ∃ t, exec .convSbly s = .next t ∧ GridFrame s t
      ∧ ∀ row col, Interior s row col →
          pix t .O row col =
            |(pix s .A (row + 1) (col - 1) + 2 * pix s .A (row + 1) col + pix s .A (row + 1) (col + 1))
              - (pix s .A (row - 1) (col - 1) + 2 * pix s .A (row - 1) col + pix s .A (row - 1) (col + 1))| / 4

/-- R150: a uniform input of value v gives v inside for Average, Gaussian and Laplacian-HPF, and 0 for the five edge
kernels and the two combined commands (default library, log 7). -/
def Obligations.UniformInputPassesOrVanishes : Prop :=
  ∀ (s : State) (v : Sample), Ready s → s.params.values.klib = defaultKlib →
    (∀ i, i < size s → s.sample .A i = v) →
    (∀ i ∈ [Instr.convAvg, .convGauss, .convHpf], ∃ t, exec i s = .next t
      ∧ ∀ row col, Interior s row col → t.sample .O (row * s.aW.toNat + col) = v)
    ∧ ∀ i ∈ [Instr.convLap, .convPrwx, .convPrwy, .convSblx, .convSbly, .edgePrw, .edgeSbl], ∃ t, exec i s = .next t
      ∧ ∀ row col, Interior s row col → t.sample .O (row * s.aW.toNat + col) = 0

/-- R139's own loops: zero-fill, then one store per interior pixel in row-major order, leave the memory O that each
single-kernel command leaves, sample by sample. -/
def Obligations.StencilIsTheLoopOfStores : Prop :=
  ∀ (s : State), Ready s → ∀ r ∈ stencils,
    ∃ t, exec r.1 s = .next t
      ∧ ∀ i, t.memO.read? i =
          Memory.read?
            ((List.range (s.aH.toNat - 2)).foldl (fun m row =>
              (List.range (s.aW.toNat - 2)).foldl (fun m col =>
                Memory.write m ((row + 1) * s.aW.toNat + (col + 1)) (s.convPix r.2 (row + 1) (col + 1))) m)
              ((List.range (size s)).foldl (fun m j => Memory.write m j 0) s.memO)) i

/-! ### Combiner (43_edge_combiner.md) -/

/-- R160: `MAX` completes; every sample of grid O becomes the greater of `A[i]` and `B[i]`. -/
def Obligations.MaxTakesGreaterSample : Prop :=
  ∀ s : State, Ready s →
    ∃ t, exec .max s = .next t ∧ GridFrame s t
      ∧ ∀ i, i < size s → (t.sample .O i).toNat = Nat.max (s.sample .A i).toNat (s.sample .B i).toNat

/-- R161 to R163: `EDGE_PRW` and `EDGE_SBL` complete, and their output is, sample for sample and border included, the
maximum of the outputs of the two single-kernel commands on the same state. -/
def Obligations.EdgeCommandsCombineStencils : Prop :=
  ∀ s : State, Ready s →
    ∀ c ∈ [(Instr.edgePrw, Instr.convPrwx, Instr.convPrwy), (.edgeSbl, .convSblx, .convSbly)],
    ∃ t x y, exec c.1 s = .next t ∧ GridFrame s t ∧ exec c.2.1 s = .next x ∧ exec c.2.2 s = .next y
      ∧ ∀ i, i < size s → (t.sample .O i).toNat = Nat.max (x.sample .O i).toNat (y.sample .O i).toNat

/-- R164: bounds, idempotence, commutativity and monotonicity of `MAX`. -/
def Obligations.CombinerLaws : Prop :=
  ∀ s u : State, Ready s → Ready u → size s = size u →
    ∃ t v, exec .max s = .next t ∧ exec .max u = .next v
      ∧ (∀ i, i < size s → (s.sample .A i).toNat ≤ (t.sample .O i).toNat ∧ (s.sample .B i).toNat ≤ (t.sample .O i).toNat
          ∧ (t.sample .O i = s.sample .A i ∨ t.sample .O i = s.sample .B i))
      ∧ ((∀ i, i < size s → s.sample .A i = s.sample .B i) → ∀ i, i < size s → t.sample .O i = s.sample .A i)
      ∧ ((∀ i, i < size s → s.sample .A i = u.sample .B i ∧ s.sample .B i = u.sample .A i) →
          ∀ i, i < size s → t.sample .O i = v.sample .O i)
      ∧ ((∀ i, i < size s → (s.sample .A i).toNat ≤ (u.sample .A i).toNat ∧ (s.sample .B i).toNat ≤ (u.sample .B i).toNat) →
          ∀ i, i < size s → (t.sample .O i).toNat ≤ (v.sample .O i).toNat)

/-- Every command is a pure function of its operands: its result depends on the parameters, the dimensions and the
samples of grid A (for `MAX` of grid B too), not on anything else (R115, R124, R150). -/
def Obligations.ResultsDependOnOperandsOnly : Prop :=
  ∀ (i : Instr) (s u : State), Ready s → Ready u → s.params = u.params → s.aW = u.aW → s.aH = u.aH →
    (∀ j, j < size s → s.sample .A j = u.sample .A j) →
    (i = .max → ∀ j, j < size s → s.sample .B j = u.sample .B j) →
    ∃ t v, exec i s = .next t ∧ exec i u = .next v
      ∧ (i = .hist → t.bins = v.bins ∧ t.low = v.low ∧ t.high = v.high)
      ∧ (i ≠ .hist → t.oW = v.oW ∧ t.oH = v.oH ∧ ∀ j, j < size s → t.sample .O j = v.sample .O j)

/-! ### The host interface (20_memory.md, 10_state.md) -/

/-- R70: while busy, a 4-byte read of `ID`, `CAP`, `CMD` or `STATUS` is answered OKAY, every other transaction ERROR,
and no transaction changes the state. -/
def Obligations.BusyGateRefusesAllButPolling : Prop :=
  ∀ (s : State) (a : Transaction), s.busy = true → a.addr < 4 * 2 ^ s.params.addrW →
    (a.access = .read4 → a.addr ∈ [0x00, 0x04, 0x08, 0x0C] → ∃ d, Answers s a d s)
    ∧ (¬ (a.access = .read4 ∧ a.addr ∈ [0x00, 0x04, 0x08, 0x0C]) → ∃ e, Rejects s a e)

/-- R64: the cases answered ERROR, in their order, with no state change and data 0; otherwise OKAY. That the reason is
recorded is log 8; that a one-byte or misaligned read below 0x10 while busy records the size case, not the busy gate, is
the model's reading of R64 (DEDUCED, log 12). -/
def Obligations.TransactionErrorsFollowOrder : Prop :=
  ∀ (s : State) (a : Transaction), a.addr < 4 * 2 ^ s.params.addrW →
    let S := 2 ^ s.params.addrW
    let reason : Option BusError :=
      if s.busy = true ∧ ¬ (a.access.isWrite = false ∧ a.addr < 0x10) then some .busy
      else if (0x30 ≤ a.addr ∧ a.addr < 0x400) ∨ (0xA00 ≤ a.addr ∧ a.addr < S) then some .unmapped
      else if (a.addr < S ∧ a.access.size ≠ 4) ∨ (a.access.size = 4 ∧ a.addr % 4 ≠ 0) then some .sizeOrAlignment
      else if a.access.isWrite = true ∧ (a.addr < 0x08 ∨ (0x20 ≤ a.addr ∧ a.addr < S) ∨ 3 * S ≤ a.addr) then
        some .readOnly
      else none
    (∀ e, reason = some e → Rejects s a e)
    ∧ (reason = none → ∀ rest, ∃ t d, step { s with events := .host a :: rest } = .next t
        ∧ t.events = rest ∧ t.responses = ⟨none, d⟩ :: s.responses)

/-- R24, R25: `ID` and `CAP` read as constants at all times; a write gets ERROR and changes nothing. -/
def Obligations.IdentificationIsConstant : Prop :=
  (∀ s : State, Answers s ⟨0x00, .read4⟩ 0x48453031 s
    ∧ Answers s ⟨0x04, .read4⟩
        (BitVec.ofNat 32 (s.params.addrW + s.params.dimW * 2 ^ 8 + s.params.cntW * 2 ^ 16)) s
    ∧ ∀ v, (∃ e, Rejects s ⟨0x00, .write4 v⟩ e) ∧ ∃ e, Rejects s ⟨0x04, .write4 v⟩ e)
  ∧ Answers State.reset ⟨0x04, .read4⟩ 0x00201014 State.reset

/-- R27: the fields of `STATUS` as read at any time, and its one write effect. R26, R70: `CMD` reads, at any time, as the
word it holds. -/
def Obligations.StatusFieldsReadAndClear : Prop :=
  ∀ s : State,
    (∃ d, Answers s ⟨0x0C, .read4⟩ d s ∧ d.getLsbD 0 = s.busy ∧ d.getLsbD 1 = s.done ∧ d.getLsbD 2 = s.hvalid
      ∧ d.extractLsb' 3 5 = 0 ∧ d.extractLsb' 12 20 = 0
      ∧ (d.extractLsb' 8 4).toNat = (match s.err with
          | .none => 0 | .illegalOp => 1 | .badDim => 2 | .dimMismatch => 3 | .invalidParam => 4))
    ∧ (∀ v, (s.busy = false →
        Answers s ⟨0x0C, .write4 v⟩ 0 { s with done := if v.getLsbD 1 = true then false else s.done })
      ∧ (s.busy = true → (∃ e, Rejects s ⟨0x0C, .write4 v⟩ e) ∧ ∃ e, Rejects s ⟨0x08, .write4 v⟩ e))
    ∧ Answers s ⟨0x08, .read4⟩ s.cmd s

/-- R28, R29, R32: a write of a dimension register keeps bits `DIM_W-1:0`, which read back with the rest 0; a write of
`A_W` or `A_H` clears `HVALID`, one of `B_W` or `B_H` does not. -/
def Obligations.DimensionRegistersKeepTheirBits : Prop :=
  ∀ (s : State) (v : Word), s.busy = false →
    let d : Dim := BitVec.ofNat 16 (v.toNat % 2 ^ s.params.dimW)
    Answers s ⟨0x10, .write4 v⟩ 0 { s with aW := d, hvalid := false }
    ∧ Answers s ⟨0x14, .write4 v⟩ 0 { s with aH := d, hvalid := false }
    ∧ Answers s ⟨0x18, .write4 v⟩ 0 { s with bW := d }
    ∧ Answers s ⟨0x1C, .write4 v⟩ 0 { s with bH := d }
    ∧ ∀ u : State, u.busy = false →
        (u.aW = d → Answers u ⟨0x10, .read4⟩ (BitVec.ofNat 32 (v.toNat % 2 ^ s.params.dimW)) u)
        ∧ (u.aH = d → Answers u ⟨0x14, .read4⟩ (BitVec.ofNat 32 (v.toNat % 2 ^ s.params.dimW)) u)
        ∧ (u.bW = d → Answers u ⟨0x18, .read4⟩ (BitVec.ofNat 32 (v.toNat % 2 ^ s.params.dimW)) u)
        ∧ (u.bH = d → Answers u ⟨0x1C, .read4⟩ (BitVec.ofNat 32 (v.toNat % 2 ^ s.params.dimW)) u)

/-- R30, R31, R33, R36: what the read-only registers, the bins and the kernel window read as while idle. -/
def Obligations.ResultsAndConstantsRead : Prop :=
  ∀ s : State, s.busy = false →
    Answers s ⟨0x20, .read4⟩ (BitVec.ofNat 32 s.oW.toNat) s
    ∧ Answers s ⟨0x24, .read4⟩ (BitVec.ofNat 32 s.oH.toNat) s
    ∧ Answers s ⟨0x28, .read4⟩ (BitVec.ofNat 32 s.low.toNat) s
    ∧ Answers s ⟨0x2C, .read4⟩ (BitVec.ofNat 32 s.high.toNat) s
    ∧ (∀ k : Sample, Answers s ⟨0x400 + 4 * k.toNat, .read4⟩ (s.bin k) s)
    ∧ ∀ q : Fin 8,
        (∀ m n : Fin 3, Answers s ⟨0x800 + 0x40 * q.val + 4 * (3 * m.val + n.val), .read4⟩
          (BitVec.ofInt 32 ((s.params.kernel q).coef m n)) s)
        ∧ Answers s ⟨0x800 + 0x40 * q.val + 36, .read4⟩ (BitVec.ofNat 32 (s.params.kernel q).den.toNat) s
        ∧ Answers s ⟨0x800 + 0x40 * q.val + 40, .read4⟩ (BitVec.ofNat 32 (s.params.kernel q).policy.code) s
        ∧ Answers s ⟨0x800 + 0x40 * q.val + 44, .read4⟩ (BitVec.ofNat 32 (s.params.kernel q).scale.toNat) s
        ∧ ∀ j, 12 ≤ j → j < 16 → Answers s ⟨0x800 + 0x40 * q.val + 4 * j, .read4⟩ 0 s

/-- R66: a 4-byte access to a sample window is little-endian and moves all four bytes; single bytes go where they are
addressed, and a byte at `i+1` is bits 15:8 of the word at `i`. -/
def Obligations.WindowAccessIsLittleEndian : Prop :=
  ∀ (s : State) (i : Nat), s.busy = false → i < 2 ^ s.params.addrW →
    (∀ x ∈ [(MemId.A, 1), (.B, 2), (.O, 3)],
      Answers s ⟨x.2 * 2 ^ s.params.addrW + i, .read1⟩ (BitVec.ofNat 32 (s.sample x.1 i).toNat) s
      ∧ (i % 4 = 0 → ∃ d : Word, Answers s ⟨x.2 * 2 ^ s.params.addrW + i, .read4⟩ d s
          ∧ d.extractLsb' 0 8 = s.sample x.1 i ∧ d.extractLsb' 8 8 = s.sample x.1 (i + 1)
          ∧ d.extractLsb' 16 8 = s.sample x.1 (i + 2) ∧ d.extractLsb' 24 8 = s.sample x.1 (i + 3)))
    ∧ ∀ x ∈ [(MemId.A, 1), (.B, 2)],
        (∀ v : BitVec 8, ∃ t, Answers s ⟨x.2 * 2 ^ s.params.addrW + i, .write1 v⟩ 0 t
          ∧ t.sample x.1 i = v ∧ ∀ j, j ≠ i → t.sample x.1 j = s.sample x.1 j)
        ∧ (i % 4 = 0 → ∀ v : Word, ∃ t, Answers s ⟨x.2 * 2 ^ s.params.addrW + i, .write4 v⟩ 0 t
          ∧ t.sample x.1 i = v.extractLsb' 0 8 ∧ t.sample x.1 (i + 1) = v.extractLsb' 8 8
          ∧ t.sample x.1 (i + 2) = v.extractLsb' 16 8 ∧ t.sample x.1 (i + 3) = v.extractLsb' 24 8
          ∧ ∀ j, (j < i ∨ i + 3 < j) → t.sample x.1 j = s.sample x.1 j)

/-- R69, R35: what a write to the A or B window leaves: its own memory, and for A a cleared `HVALID`. -/
def Obligations.WindowWritesTouchOneMemory : Prop :=
  ∀ (s : State) (i : Nat) (v : BitVec 8) (w : Word), s.busy = false → i < 2 ^ s.params.addrW →
    (∃ m, Answers s ⟨2 ^ s.params.addrW + i, .write1 v⟩ 0 { s with memA := m, hvalid := false })
    ∧ (∃ m, Answers s ⟨2 * 2 ^ s.params.addrW + i, .write1 v⟩ 0 { s with memB := m })
    ∧ (i % 4 = 0 → (∃ m, Answers s ⟨2 ^ s.params.addrW + i, .write4 w⟩ 0 { s with memA := m, hvalid := false })
        ∧ ∃ m, Answers s ⟨2 * 2 ^ s.params.addrW + i, .write4 w⟩ 0 { s with memB := m })

/-- R69: a read has no side effect: it changes nothing but the events and the responses, and done twice it is answered
the same. -/
def Obligations.ReadsHaveNoSideEffects : Prop :=
  ∀ (s : State) (a : Transaction) (rest : List Event), a.access.isWrite = false → a.addr < 4 * 2 ^ s.params.addrW →
    ∃ r, step { s with events := .host a :: .host a :: rest }
          = .next { s with events := .host a :: rest, responses := r :: s.responses }
      ∧ step { s with events := .host a :: rest, responses := r :: s.responses }
          = .next { s with events := rest, responses := r :: r :: s.responses }

/-- The interface has no offset at or above `4 * 2^ADDR_W` (R60); the model stops there (DESIGN CHOICE, log 9). -/
def Obligations.OffsetsOutsideBlockStop : Prop :=
  ∀ (s : State) (a : Transaction) (rest : List Event), 4 * 2 ^ s.params.addrW ≤ a.addr →
    step { s with events := .host a :: rest } = .fault (.offsetOutsideBlock a.addr)

/-! ### Reset (10_state.md R42, 70_reset_and_hazards.md R220, R221) -/

/-- R220, R221: `Reset` at any point, busy or idle, puts every register into the value of the table of R42; no byte of a
sample memory counts as written, and every bin holds a value below `2^CNT_W`. -/
def Obligations.ResetPutsEveryRegisterToItsValue : Prop :=
  ∀ (s : State) (rest : List Event),
    ∃ t, step { s with events := .reset :: rest } = .next t
      ∧ t = { s with cmd := 0, busy := false, done := false, hvalid := false, err := .none, aW := 0, aH := 0, bW := 0,
                     bH := 0, oW := 0, oH := 0, low := 0, high := 0, bins := t.bins, memA := [], memB := [], memO := [],
                     epoch := s.epoch + 1, events := rest }
      ∧ (∀ k, (t.bin k).toNat < 2 ^ s.params.cntW)
      ∧ ∀ x i, t.sample x i = Config.resetSample (s.epoch + 1) x i

/-! ### The whole machine -/

/-- The state after any reset, with any well-formed parameters, meets the invariant. -/
def Obligations.ResetMeetsInvariant : Prop := ∀ (p : Params) (n : Nat), (State.afterReset p n).Inv

/-- Every step keeps the invariant: the flag invariants of R227, the histogram invariant of R34, the widths of the
registers and bins, the canonical form and size of the memories, an accepted command while busy. -/
def Obligations.StepKeepsInvariant : Prop := ∀ s t : State, s.Inv → step s = .next t → t.Inv

/-- R190, R204: from a consistent state a step never stops the machine; in particular no completing step fails. -/
def Obligations.ConsistentMachineNeverStops : Prop :=
  ∀ s : State, s.Inv → s.offsetsInRange → ∃ t, step s = .next t ∧ t.Inv ∧ t.offsetsInRange

/-- Whatever the host, the engine and the platform do from a reset, in whatever order, the machine runs on. -/
def Obligations.RunsFromResetAreSafe : Prop :=
  ∀ (p : Params) (n : Nat) (es : List Event),
    ({ State.afterReset p n with events := es } : State).offsetsInRange →
    ∀ k, safeRun { State.afterReset p n with events := es } k

/-- R35: `HVALID` is set only by the completing step of `HIST`, and cleared only by reset, by accepting a valid `HIST`,
and by OKAY writes to `A_W`, `A_H` or the A window; each of these does set or clear it. While it is 0 the bins, `LOW` and
`HIGH` keep their values (a reset apart). -/
def Obligations.HvalidProtocol : Prop :=
  (∀ s t : State, step s = .next t → s.hvalid = false → t.hvalid = true →
    s.busy = true ∧ decode s.cmd = .instr .hist ∧ (s.events = [] ∨ ∃ rest, s.events = .engine :: rest))
  ∧ (∀ s t : State, step s = .next t → s.hvalid = true → t.hvalid = false →
    (∃ rest, s.events = .reset :: rest)
    ∨ ∃ a rest d, s.events = .host a :: rest ∧ s.busy = false ∧ a.access.isWrite = true
        ∧ t.responses = ⟨none, d⟩ :: s.responses
        ∧ (a.addr = 0x10 ∨ a.addr = 0x14 ∨ (2 ^ s.params.addrW ≤ a.addr ∧ a.addr < 2 * 2 ^ s.params.addrW)
            ∨ (a = ⟨0x08, .write4 0x00000003⟩ ∧ t.busy = true)))
  ∧ (∀ s t : State, s.busy = true → exec .hist s = .next t → t.hvalid = true)
  ∧ (∀ s t : State, s.busy = false → exec .hist s = .next t → t.busy = true → t.hvalid = false)
  ∧ (∀ (s t : State) (a : Transaction) (rest : List Event) (d : Word), s.events = .host a :: rest → step s = .next t →
      a.access.isWrite = true →
      (a.addr = 0x10 ∨ a.addr = 0x14 ∨ (2 ^ s.params.addrW ≤ a.addr ∧ a.addr < 2 * 2 ^ s.params.addrW)) →
      t.responses = ⟨none, d⟩ :: s.responses → t.hvalid = false)
  ∧ (∀ (s : State) (rest : List Event), ∃ t, step { s with events := .reset :: rest } = .next t ∧ t.hvalid = false)
  ∧ ∀ s t : State, step s = .next t → t.hvalid = false → (∀ rest, s.events ≠ .reset :: rest) →
      t.bins = s.bins ∧ t.low = s.low ∧ t.high = s.high

/-- R31, R33: only the completing step of `HIST` and a reset change a bin, `LOW` or `HIGH`. -/
def Obligations.OnlyHistWritesHistogram : Prop :=
  ∀ s t : State, step s = .next t →
    (t.bins = s.bins ∧ t.low = s.low ∧ t.high = s.high)
    ∨ (∃ rest, s.events = .reset :: rest)
    ∨ (s.busy = true ∧ decode s.cmd = .instr .hist ∧ (s.events = [] ∨ ∃ rest, s.events = .engine :: rest))

/-- R37, R36: the engine never writes A or B, which change only by OKAY host writes to their own windows; the host never
writes O, which changes, with `O_W` and `O_H`, only by a completing step; a reset apart. The parameters, the kernel
library among them, never change. -/
def Obligations.SampleMemoriesHaveOneWriter : Prop :=
  ∀ s t : State, step s = .next t →
    t.params = s.params
    ∧ ((∃ rest, s.events = .reset :: rest)
      ∨ ((t.memA = s.memA ∨ ∃ a rest, s.events = .host a :: rest ∧ s.busy = false ∧ a.access.isWrite = true
            ∧ 2 ^ s.params.addrW ≤ a.addr ∧ a.addr < 2 * 2 ^ s.params.addrW)
        ∧ (t.memB = s.memB ∨ ∃ a rest, s.events = .host a :: rest ∧ s.busy = false ∧ a.access.isWrite = true
            ∧ 2 * 2 ^ s.params.addrW ≤ a.addr ∧ a.addr < 3 * 2 ^ s.params.addrW)
        ∧ ((t.memO = s.memO ∧ t.oW = s.oW ∧ t.oH = s.oH)
            ∨ (s.busy = true ∧ ∃ i, decode s.cmd = .instr i ∧ i ≠ .hist
                ∧ (s.events = [] ∨ ∃ rest, s.events = .engine :: rest)))))

/-- R193, R73, R76: an accepted command completes as it was accepted, however many transactions the host performs while
it is busy: they change nothing but the responses. -/
def Obligations.BusyCommandRunsUndisturbed : Prop :=
  ∀ (s : State) (i : Instr) (as : List Transaction) (rest : List Event), s.busy = false → GridFits s →
    (i = .max → s.bW = s.aW ∧ s.bH = s.aH) → (∀ a ∈ as, a.addr < 4 * 2 ^ s.params.addrW) →
    ∃ rs t, rs.length = as.length
      ∧ Host.Core.run core (as.length + 2)
          { s with events := .host ⟨0x08, .write4 (encode i)⟩ :: (as.map Event.host ++ .engine :: rest) } = .next t
      ∧ exec i { s with cmd := encode i, done := false, err := .none, busy := true,
                        hvalid := if i = .hist then false else s.hvalid, events := rest,
                        responses := rs ++ ⟨none, 0⟩ :: s.responses } = .next t

/-- R193: a busy engine eventually completes: at the latest when the scheduled transactions are used up. -/
def Obligations.BusyCommandCompletes : Prop :=
  ∀ (s : State) (as : List Transaction), s.Inv → s.busy = true → s.events = as.map Event.host →
    (∀ a ∈ as, a.addr < 4 * 2 ^ s.params.addrW) →
    ∃ t, Host.Core.run core (as.length + 1) s = .next t ∧ t.busy = false ∧ t.done = true ∧ t.err = .none

/-! ### Host-side reference functions (48_reference_functions.md) -/

/-- R178: the estimator's threshold is always in 0 to 255. -/
def Obligations.GonzalezStaysInRange : Prop :=
  ∀ (H : Nat → Nat) (low high : Nat), low ≤ 255 → high ≤ 255 → gonzalez H low high ≤ 255

/-- R174, R176: stretching a grid that lies in `Low` to `High` needs no clamp and maps `Low` to 0 and `High` to 255;
the equalization table is non-decreasing, in 0 to 255, and 255 at `High`. -/
def Obligations.StretchingAndEqualizationFill : Prop :=
  (∀ (low high x : Sample), low.toNat < high.toNat → low.toNat ≤ x.toNat → x.toNat ≤ high.toNat →
      ∃ y : Sample, stretching low high [x] = [y]
        ∧ y.toNat = (x.toNat - low.toNat) * 255 / (high.toNat - low.toNat)
        ∧ (x = low → y = 0) ∧ (x = high → y = 255))
  ∧ ∀ (H : Nat → Nat) (n high : Nat), 0 < n → cumulative H high = n → (∀ k, high < k → H k = 0) →
      (∀ j k, j ≤ k → (equalizationLut H n j).toNat ≤ (equalizationLut H n k).toNat)
      ∧ (∀ k, (equalizationLut H n k).toNat = 255 * cumulative H k / n)
      ∧ equalizationLut H n high = 255

/-- R171, R172, R173: Inverse is an involution, Brightness(0) and Contrast(1) are the identity, Brightness saturates at
both bounds, and a negative contrast factor produces no output. -/
def Obligations.PointTransformLaws : Prop :=
  ∀ g : List Sample,
    inverse (inverse g) = g ∧ brightness 0 g = g
    ∧ (∀ q : Nat, 0 < q → contrast (q : Int) q g = some g) ∧ (∀ (p : Int) (q : Nat), p < 0 → contrast p q g = none)
    ∧ ∀ (d : Int) (x : Sample), (0 < d → 255 < x.toNat + d → brightness d [x] = [255])
      ∧ (d < 0 → x.toNat + d < 0 → brightness d [x] = [0])

/-! ### Host programs (30_encoding.md R102, 48_reference_functions.md R179) -/

/-- R102: `WAIT` reads `STATUS` and goes on exactly when the data show `BUSY = 0`; `LOADA` and `LOADB` of `w*h` samples,
packed or not, place them and the dimensions and nothing else; `READO` gives the dimensions and every sample of grid O. -/
def Obligations.WaitLoadAndReadoDoAsTheyExpand : Prop :=
  (∀ (s : State) (k : HostProgram Unit), ∃ d : Word, d.getLsbD 0 = s.busy
      ∧ (HostProgram.wait k).run [.host] s
          = .next (if s.busy = true then .wait k else k, { s with events := [], responses := ⟨none, d⟩ :: s.responses }))
  ∧ (∀ (s : State) (packed : Nat → Bool) (w h : Word) (v : Vector Sample (w.toNat * h.toNat)), s.busy = false →
      w.toNat < 2 ^ s.params.dimW → h.toNat < 2 ^ s.params.dimW → w.toNat * h.toNat ≤ 2 ^ s.params.addrW →
      (∃ n t, (loadA s.params packed w h v).run (List.replicate n .host) s = .next (.ret (), t)
        ∧ t = { s with aW := BitVec.ofNat 16 w.toNat, aH := BitVec.ofNat 16 h.toNat, memA := t.memA, hvalid := false,
                       events := [], responses := t.responses }
        ∧ (∀ i (hi : i < w.toNat * h.toNat), t.sample .A i = v[i])
        ∧ ∀ i, w.toNat * h.toNat ≤ i → t.sample .A i = s.sample .A i)
      ∧ ∃ n t, (loadB s.params packed w h v).run (List.replicate n .host) s = .next (.ret (), t)
        ∧ t = { s with bW := BitVec.ofNat 16 w.toNat, bH := BitVec.ofNat 16 h.toNat, memB := t.memB,
                       events := [], responses := t.responses }
        ∧ (∀ i (hi : i < w.toNat * h.toNat), t.sample .B i = v[i])
        ∧ ∀ i, w.toNat * h.toNat ≤ i → t.sample .B i = s.sample .B i)
  ∧ ∀ s : State, s.busy = false → s.oW.toNat * s.oH.toNat ≤ 2 ^ s.params.addrW →
      ∃ t, (readO s.params).run (List.replicate (2 + s.oW.toNat * s.oH.toNat) .host) s
          = .next (.ret (BitVec.ofNat 32 s.oW.toNat, BitVec.ofNat 32 s.oH.toNat,
                    (List.range (s.oW.toNat * s.oH.toNat)).map (s.sample .O)), t)
        ∧ t = { s with events := [], responses := t.responses }

/-- R102, R114: `HISTDUMP` from an idle block with a valid grid A, however often `WAIT` polls before the engine's turn,
reports the 256 pairs of intensity and count in ascending order. -/
def Obligations.HistdumpReportsPairs : Prop :=
  ∀ (s : State) (polls : Nat), s.busy = false → GridFits s →
    ∃ t, histDump.run (.host :: (List.replicate polls .host ++ .engine :: List.replicate (1 + 256) .host)) s
        = .next (.ret ((List.range 256).map (fun k => (k, t.bin (BitVec.ofNat 8 k)))), t)
      ∧ t = { s with cmd := 0x00000003, done := true, err := .none, hvalid := true, bins := t.bins, low := t.low,
                     high := t.high, events := [], responses := t.responses }
      ∧ ∀ k, (t.bin k).toNat = (List.range (size s)).countP (fun i => decide (s.sample .A i = k))

/-- R102, R179: `GBIN` from an idle block with a valid grid A, however often its two `WAIT`s poll, computes the Gonzalez
threshold of the grid's own histogram from the data it reads, and leaves grid O binarized with it. -/
def Obligations.GbinBinarizesByOwnThreshold : Prop :=
  ∀ (s : State) (polls polls' : Nat), s.busy = false → GridFits s →
    ∃ (T low high : Sample) (t : State),
      gbin.run (.host :: (List.replicate polls .host ++ .engine :: (List.replicate (1 + 2 + 256) .host
          ++ .host :: (List.replicate polls' .host ++ [.engine, .host])))) s = .next (.ret T, t)
      ∧ (∃ i, i < size s ∧ s.sample .A i = low) ∧ (∃ i, i < size s ∧ s.sample .A i = high)
      ∧ (∀ i, i < size s → low.toNat ≤ (s.sample .A i).toNat ∧ (s.sample .A i).toNat ≤ high.toNat)
      ∧ T.toNat = gonzalez (fun k => (List.range (size s)).countP (fun i => decide ((s.sample .A i).toNat = k)))
          low.toNat high.toNat
      ∧ t = { s with cmd := encode (.bin T), done := true, err := .none, hvalid := true, bins := t.bins, low := low,
                     high := high, oW := s.aW, oH := s.aH, memO := t.memO, events := [], responses := t.responses }
      ∧ (∀ i, i < size s → t.sample .O i = if (s.sample .A i).toNat < T.toNat then 0x00 else 0xFF)
      ∧ (∀ i, size s ≤ i → t.sample .O i = s.sample .O i)
      ∧ (List.range (size s)).map (t.sample .O) = gonzalezBinarization ((List.range (size s)).map (s.sample .A))
end

