-- ==== Sys2Proof/Laws/State.lean ====
section
/-! SUPPORT. One lemma per field per named update of the state, and what the derived reads (`mem`, `sample`, `bin`,
`gridSize`, `gridOk`, `gridsMatch`, `gridSamples`) give after each update that leaves their fields alone. All are true by
`rfl` (a case split on the memory's name apart). -/

namespace Sys2Proof.Machine

/-! ### respond -/

@[simp] theorem State.respond_params (s : State) (r : Response) : (s.respond r).params = s.params := rfl
@[simp] theorem State.respond_cmd (s : State) (r : Response) : (s.respond r).cmd = s.cmd := rfl
@[simp] theorem State.respond_busy (s : State) (r : Response) : (s.respond r).busy = s.busy := rfl
@[simp] theorem State.respond_done (s : State) (r : Response) : (s.respond r).done = s.done := rfl
@[simp] theorem State.respond_hvalid (s : State) (r : Response) : (s.respond r).hvalid = s.hvalid := rfl
@[simp] theorem State.respond_err (s : State) (r : Response) : (s.respond r).err = s.err := rfl
@[simp] theorem State.respond_aW (s : State) (r : Response) : (s.respond r).aW = s.aW := rfl
@[simp] theorem State.respond_aH (s : State) (r : Response) : (s.respond r).aH = s.aH := rfl
@[simp] theorem State.respond_bW (s : State) (r : Response) : (s.respond r).bW = s.bW := rfl
@[simp] theorem State.respond_bH (s : State) (r : Response) : (s.respond r).bH = s.bH := rfl
@[simp] theorem State.respond_oW (s : State) (r : Response) : (s.respond r).oW = s.oW := rfl
@[simp] theorem State.respond_oH (s : State) (r : Response) : (s.respond r).oH = s.oH := rfl
@[simp] theorem State.respond_low (s : State) (r : Response) : (s.respond r).low = s.low := rfl
@[simp] theorem State.respond_high (s : State) (r : Response) : (s.respond r).high = s.high := rfl
@[simp] theorem State.respond_bins (s : State) (r : Response) : (s.respond r).bins = s.bins := rfl
@[simp] theorem State.respond_memA (s : State) (r : Response) : (s.respond r).memA = s.memA := rfl
@[simp] theorem State.respond_memB (s : State) (r : Response) : (s.respond r).memB = s.memB := rfl
@[simp] theorem State.respond_memO (s : State) (r : Response) : (s.respond r).memO = s.memO := rfl
@[simp] theorem State.respond_epoch (s : State) (r : Response) : (s.respond r).epoch = s.epoch := rfl
@[simp] theorem State.respond_events (s : State) (r : Response) : (s.respond r).events = s.events := rfl
@[simp] theorem State.respond_responses (s : State) (r : Response) : (s.respond r).responses = r :: s.responses := rfl
@[simp] theorem State.respond_mem (s : State) (r : Response) (x : MemId) : (s.respond r).mem x = s.mem x := rfl
@[simp] theorem State.respond_sample (s : State) (r : Response) (x : MemId) (i : Nat) : (s.respond r).sample x i = s.sample x i := rfl
@[simp] theorem State.respond_bin (s : State) (r : Response) (k : Sample) : (s.respond r).bin k = s.bin k := rfl
@[simp] theorem State.respond_gridSize (s : State) (r : Response) : (s.respond r).gridSize = s.gridSize := rfl
@[simp] theorem State.respond_gridOk (s : State) (r : Response) : (s.respond r).gridOk = s.gridOk := rfl
@[simp] theorem State.respond_gridsMatch (s : State) (r : Response) : (s.respond r).gridsMatch = s.gridsMatch := rfl
@[simp] theorem State.respond_gridSamples (s : State) (r : Response) : (s.respond r).gridSamples = s.gridSamples := rfl

/-! ### latchCommand -/

@[simp] theorem State.latchCommand_params (s : State) (w : Word) : (s.latchCommand w).params = s.params := rfl
@[simp] theorem State.latchCommand_cmd (s : State) (w : Word) : (s.latchCommand w).cmd = w := rfl
@[simp] theorem State.latchCommand_busy (s : State) (w : Word) : (s.latchCommand w).busy = s.busy := rfl
@[simp] theorem State.latchCommand_done (s : State) (w : Word) : (s.latchCommand w).done = false := rfl
@[simp] theorem State.latchCommand_hvalid (s : State) (w : Word) : (s.latchCommand w).hvalid = s.hvalid := rfl
@[simp] theorem State.latchCommand_err (s : State) (w : Word) : (s.latchCommand w).err = .none := rfl
@[simp] theorem State.latchCommand_aW (s : State) (w : Word) : (s.latchCommand w).aW = s.aW := rfl
@[simp] theorem State.latchCommand_aH (s : State) (w : Word) : (s.latchCommand w).aH = s.aH := rfl
@[simp] theorem State.latchCommand_bW (s : State) (w : Word) : (s.latchCommand w).bW = s.bW := rfl
@[simp] theorem State.latchCommand_bH (s : State) (w : Word) : (s.latchCommand w).bH = s.bH := rfl
@[simp] theorem State.latchCommand_oW (s : State) (w : Word) : (s.latchCommand w).oW = s.oW := rfl
@[simp] theorem State.latchCommand_oH (s : State) (w : Word) : (s.latchCommand w).oH = s.oH := rfl
@[simp] theorem State.latchCommand_low (s : State) (w : Word) : (s.latchCommand w).low = s.low := rfl
@[simp] theorem State.latchCommand_high (s : State) (w : Word) : (s.latchCommand w).high = s.high := rfl
@[simp] theorem State.latchCommand_bins (s : State) (w : Word) : (s.latchCommand w).bins = s.bins := rfl
@[simp] theorem State.latchCommand_memA (s : State) (w : Word) : (s.latchCommand w).memA = s.memA := rfl
@[simp] theorem State.latchCommand_memB (s : State) (w : Word) : (s.latchCommand w).memB = s.memB := rfl
@[simp] theorem State.latchCommand_memO (s : State) (w : Word) : (s.latchCommand w).memO = s.memO := rfl
@[simp] theorem State.latchCommand_epoch (s : State) (w : Word) : (s.latchCommand w).epoch = s.epoch := rfl
@[simp] theorem State.latchCommand_events (s : State) (w : Word) : (s.latchCommand w).events = s.events := rfl
@[simp] theorem State.latchCommand_responses (s : State) (w : Word) : (s.latchCommand w).responses = s.responses := rfl
@[simp] theorem State.latchCommand_mem (s : State) (w : Word) (x : MemId) : (s.latchCommand w).mem x = s.mem x := rfl
@[simp] theorem State.latchCommand_sample (s : State) (w : Word) (x : MemId) (i : Nat) : (s.latchCommand w).sample x i = s.sample x i := rfl
@[simp] theorem State.latchCommand_bin (s : State) (w : Word) (k : Sample) : (s.latchCommand w).bin k = s.bin k := rfl
@[simp] theorem State.latchCommand_gridSize (s : State) (w : Word) : (s.latchCommand w).gridSize = s.gridSize := rfl
@[simp] theorem State.latchCommand_gridOk (s : State) (w : Word) : (s.latchCommand w).gridOk = s.gridOk := rfl
@[simp] theorem State.latchCommand_gridsMatch (s : State) (w : Word) : (s.latchCommand w).gridsMatch = s.gridsMatch := rfl
@[simp] theorem State.latchCommand_gridSamples (s : State) (w : Word) : (s.latchCommand w).gridSamples = s.gridSamples := rfl

/-! ### raiseCmdError -/

@[simp] theorem State.raiseCmdError_params (s : State) (c : ErrCode) : (s.raiseCmdError c).params = s.params := rfl
@[simp] theorem State.raiseCmdError_cmd (s : State) (c : ErrCode) : (s.raiseCmdError c).cmd = s.cmd := rfl
@[simp] theorem State.raiseCmdError_busy (s : State) (c : ErrCode) : (s.raiseCmdError c).busy = s.busy := rfl
@[simp] theorem State.raiseCmdError_done (s : State) (c : ErrCode) : (s.raiseCmdError c).done = true := rfl
@[simp] theorem State.raiseCmdError_hvalid (s : State) (c : ErrCode) : (s.raiseCmdError c).hvalid = s.hvalid := rfl
@[simp] theorem State.raiseCmdError_err (s : State) (c : ErrCode) : (s.raiseCmdError c).err = c := rfl
@[simp] theorem State.raiseCmdError_aW (s : State) (c : ErrCode) : (s.raiseCmdError c).aW = s.aW := rfl
@[simp] theorem State.raiseCmdError_aH (s : State) (c : ErrCode) : (s.raiseCmdError c).aH = s.aH := rfl
@[simp] theorem State.raiseCmdError_bW (s : State) (c : ErrCode) : (s.raiseCmdError c).bW = s.bW := rfl
@[simp] theorem State.raiseCmdError_bH (s : State) (c : ErrCode) : (s.raiseCmdError c).bH = s.bH := rfl
@[simp] theorem State.raiseCmdError_oW (s : State) (c : ErrCode) : (s.raiseCmdError c).oW = s.oW := rfl
@[simp] theorem State.raiseCmdError_oH (s : State) (c : ErrCode) : (s.raiseCmdError c).oH = s.oH := rfl
@[simp] theorem State.raiseCmdError_low (s : State) (c : ErrCode) : (s.raiseCmdError c).low = s.low := rfl
@[simp] theorem State.raiseCmdError_high (s : State) (c : ErrCode) : (s.raiseCmdError c).high = s.high := rfl
@[simp] theorem State.raiseCmdError_bins (s : State) (c : ErrCode) : (s.raiseCmdError c).bins = s.bins := rfl
@[simp] theorem State.raiseCmdError_memA (s : State) (c : ErrCode) : (s.raiseCmdError c).memA = s.memA := rfl
@[simp] theorem State.raiseCmdError_memB (s : State) (c : ErrCode) : (s.raiseCmdError c).memB = s.memB := rfl
@[simp] theorem State.raiseCmdError_memO (s : State) (c : ErrCode) : (s.raiseCmdError c).memO = s.memO := rfl
@[simp] theorem State.raiseCmdError_epoch (s : State) (c : ErrCode) : (s.raiseCmdError c).epoch = s.epoch := rfl
@[simp] theorem State.raiseCmdError_events (s : State) (c : ErrCode) : (s.raiseCmdError c).events = s.events := rfl
@[simp] theorem State.raiseCmdError_responses (s : State) (c : ErrCode) : (s.raiseCmdError c).responses = s.responses := rfl
@[simp] theorem State.raiseCmdError_mem (s : State) (c : ErrCode) (x : MemId) : (s.raiseCmdError c).mem x = s.mem x := rfl
@[simp] theorem State.raiseCmdError_sample (s : State) (c : ErrCode) (x : MemId) (i : Nat) : (s.raiseCmdError c).sample x i = s.sample x i := rfl
@[simp] theorem State.raiseCmdError_bin (s : State) (c : ErrCode) (k : Sample) : (s.raiseCmdError c).bin k = s.bin k := rfl
@[simp] theorem State.raiseCmdError_gridSize (s : State) (c : ErrCode) : (s.raiseCmdError c).gridSize = s.gridSize := rfl
@[simp] theorem State.raiseCmdError_gridOk (s : State) (c : ErrCode) : (s.raiseCmdError c).gridOk = s.gridOk := rfl
@[simp] theorem State.raiseCmdError_gridsMatch (s : State) (c : ErrCode) : (s.raiseCmdError c).gridsMatch = s.gridsMatch := rfl
@[simp] theorem State.raiseCmdError_gridSamples (s : State) (c : ErrCode) : (s.raiseCmdError c).gridSamples = s.gridSamples := rfl

/-! ### clearHvalid -/

@[simp] theorem State.clearHvalid_params (s : State) : (s.clearHvalid).params = s.params := rfl
@[simp] theorem State.clearHvalid_cmd (s : State) : (s.clearHvalid).cmd = s.cmd := rfl
@[simp] theorem State.clearHvalid_busy (s : State) : (s.clearHvalid).busy = s.busy := rfl
@[simp] theorem State.clearHvalid_done (s : State) : (s.clearHvalid).done = s.done := rfl
@[simp] theorem State.clearHvalid_hvalid (s : State) : (s.clearHvalid).hvalid = false := rfl
@[simp] theorem State.clearHvalid_err (s : State) : (s.clearHvalid).err = s.err := rfl
@[simp] theorem State.clearHvalid_aW (s : State) : (s.clearHvalid).aW = s.aW := rfl
@[simp] theorem State.clearHvalid_aH (s : State) : (s.clearHvalid).aH = s.aH := rfl
@[simp] theorem State.clearHvalid_bW (s : State) : (s.clearHvalid).bW = s.bW := rfl
@[simp] theorem State.clearHvalid_bH (s : State) : (s.clearHvalid).bH = s.bH := rfl
@[simp] theorem State.clearHvalid_oW (s : State) : (s.clearHvalid).oW = s.oW := rfl
@[simp] theorem State.clearHvalid_oH (s : State) : (s.clearHvalid).oH = s.oH := rfl
@[simp] theorem State.clearHvalid_low (s : State) : (s.clearHvalid).low = s.low := rfl
@[simp] theorem State.clearHvalid_high (s : State) : (s.clearHvalid).high = s.high := rfl
@[simp] theorem State.clearHvalid_bins (s : State) : (s.clearHvalid).bins = s.bins := rfl
@[simp] theorem State.clearHvalid_memA (s : State) : (s.clearHvalid).memA = s.memA := rfl
@[simp] theorem State.clearHvalid_memB (s : State) : (s.clearHvalid).memB = s.memB := rfl
@[simp] theorem State.clearHvalid_memO (s : State) : (s.clearHvalid).memO = s.memO := rfl
@[simp] theorem State.clearHvalid_epoch (s : State) : (s.clearHvalid).epoch = s.epoch := rfl
@[simp] theorem State.clearHvalid_events (s : State) : (s.clearHvalid).events = s.events := rfl
@[simp] theorem State.clearHvalid_responses (s : State) : (s.clearHvalid).responses = s.responses := rfl
@[simp] theorem State.clearHvalid_mem (s : State) (x : MemId) : (s.clearHvalid).mem x = s.mem x := rfl
@[simp] theorem State.clearHvalid_sample (s : State) (x : MemId) (i : Nat) : (s.clearHvalid).sample x i = s.sample x i := rfl
@[simp] theorem State.clearHvalid_bin (s : State) (k : Sample) : (s.clearHvalid).bin k = s.bin k := rfl
@[simp] theorem State.clearHvalid_gridSize (s : State) : (s.clearHvalid).gridSize = s.gridSize := rfl
@[simp] theorem State.clearHvalid_gridOk (s : State) : (s.clearHvalid).gridOk = s.gridOk := rfl
@[simp] theorem State.clearHvalid_gridsMatch (s : State) : (s.clearHvalid).gridsMatch = s.gridsMatch := rfl
@[simp] theorem State.clearHvalid_gridSamples (s : State) : (s.clearHvalid).gridSamples = s.gridSamples := rfl

/-! ### startBusy -/

@[simp] theorem State.startBusy_params (s : State) : (s.startBusy).params = s.params := rfl
@[simp] theorem State.startBusy_cmd (s : State) : (s.startBusy).cmd = s.cmd := rfl
@[simp] theorem State.startBusy_busy (s : State) : (s.startBusy).busy = true := rfl
@[simp] theorem State.startBusy_done (s : State) : (s.startBusy).done = s.done := rfl
@[simp] theorem State.startBusy_hvalid (s : State) : (s.startBusy).hvalid = s.hvalid := rfl
@[simp] theorem State.startBusy_err (s : State) : (s.startBusy).err = s.err := rfl
@[simp] theorem State.startBusy_aW (s : State) : (s.startBusy).aW = s.aW := rfl
@[simp] theorem State.startBusy_aH (s : State) : (s.startBusy).aH = s.aH := rfl
@[simp] theorem State.startBusy_bW (s : State) : (s.startBusy).bW = s.bW := rfl
@[simp] theorem State.startBusy_bH (s : State) : (s.startBusy).bH = s.bH := rfl
@[simp] theorem State.startBusy_oW (s : State) : (s.startBusy).oW = s.oW := rfl
@[simp] theorem State.startBusy_oH (s : State) : (s.startBusy).oH = s.oH := rfl
@[simp] theorem State.startBusy_low (s : State) : (s.startBusy).low = s.low := rfl
@[simp] theorem State.startBusy_high (s : State) : (s.startBusy).high = s.high := rfl
@[simp] theorem State.startBusy_bins (s : State) : (s.startBusy).bins = s.bins := rfl
@[simp] theorem State.startBusy_memA (s : State) : (s.startBusy).memA = s.memA := rfl
@[simp] theorem State.startBusy_memB (s : State) : (s.startBusy).memB = s.memB := rfl
@[simp] theorem State.startBusy_memO (s : State) : (s.startBusy).memO = s.memO := rfl
@[simp] theorem State.startBusy_epoch (s : State) : (s.startBusy).epoch = s.epoch := rfl
@[simp] theorem State.startBusy_events (s : State) : (s.startBusy).events = s.events := rfl
@[simp] theorem State.startBusy_responses (s : State) : (s.startBusy).responses = s.responses := rfl
@[simp] theorem State.startBusy_mem (s : State) (x : MemId) : (s.startBusy).mem x = s.mem x := rfl
@[simp] theorem State.startBusy_sample (s : State) (x : MemId) (i : Nat) : (s.startBusy).sample x i = s.sample x i := rfl
@[simp] theorem State.startBusy_bin (s : State) (k : Sample) : (s.startBusy).bin k = s.bin k := rfl
@[simp] theorem State.startBusy_gridSize (s : State) : (s.startBusy).gridSize = s.gridSize := rfl
@[simp] theorem State.startBusy_gridOk (s : State) : (s.startBusy).gridOk = s.gridOk := rfl
@[simp] theorem State.startBusy_gridsMatch (s : State) : (s.startBusy).gridsMatch = s.gridsMatch := rfl
@[simp] theorem State.startBusy_gridSamples (s : State) : (s.startBusy).gridSamples = s.gridSamples := rfl

/-! ### finish -/

@[simp] theorem State.finish_params (s : State) : (s.finish).params = s.params := rfl
@[simp] theorem State.finish_cmd (s : State) : (s.finish).cmd = s.cmd := rfl
@[simp] theorem State.finish_busy (s : State) : (s.finish).busy = false := rfl
@[simp] theorem State.finish_done (s : State) : (s.finish).done = true := rfl
@[simp] theorem State.finish_hvalid (s : State) : (s.finish).hvalid = s.hvalid := rfl
@[simp] theorem State.finish_err (s : State) : (s.finish).err = s.err := rfl
@[simp] theorem State.finish_aW (s : State) : (s.finish).aW = s.aW := rfl
@[simp] theorem State.finish_aH (s : State) : (s.finish).aH = s.aH := rfl
@[simp] theorem State.finish_bW (s : State) : (s.finish).bW = s.bW := rfl
@[simp] theorem State.finish_bH (s : State) : (s.finish).bH = s.bH := rfl
@[simp] theorem State.finish_oW (s : State) : (s.finish).oW = s.oW := rfl
@[simp] theorem State.finish_oH (s : State) : (s.finish).oH = s.oH := rfl
@[simp] theorem State.finish_low (s : State) : (s.finish).low = s.low := rfl
@[simp] theorem State.finish_high (s : State) : (s.finish).high = s.high := rfl
@[simp] theorem State.finish_bins (s : State) : (s.finish).bins = s.bins := rfl
@[simp] theorem State.finish_memA (s : State) : (s.finish).memA = s.memA := rfl
@[simp] theorem State.finish_memB (s : State) : (s.finish).memB = s.memB := rfl
@[simp] theorem State.finish_memO (s : State) : (s.finish).memO = s.memO := rfl
@[simp] theorem State.finish_epoch (s : State) : (s.finish).epoch = s.epoch := rfl
@[simp] theorem State.finish_events (s : State) : (s.finish).events = s.events := rfl
@[simp] theorem State.finish_responses (s : State) : (s.finish).responses = s.responses := rfl
@[simp] theorem State.finish_mem (s : State) (x : MemId) : (s.finish).mem x = s.mem x := rfl
@[simp] theorem State.finish_sample (s : State) (x : MemId) (i : Nat) : (s.finish).sample x i = s.sample x i := rfl
@[simp] theorem State.finish_bin (s : State) (k : Sample) : (s.finish).bin k = s.bin k := rfl
@[simp] theorem State.finish_gridSize (s : State) : (s.finish).gridSize = s.gridSize := rfl
@[simp] theorem State.finish_gridOk (s : State) : (s.finish).gridOk = s.gridOk := rfl
@[simp] theorem State.finish_gridsMatch (s : State) : (s.finish).gridsMatch = s.gridsMatch := rfl
@[simp] theorem State.finish_gridSamples (s : State) : (s.finish).gridSamples = s.gridSamples := rfl

/-! ### writeStatus -/

@[simp] theorem State.writeStatus_params (s : State) (v : Word) : (s.writeStatus v).params = s.params := rfl
@[simp] theorem State.writeStatus_cmd (s : State) (v : Word) : (s.writeStatus v).cmd = s.cmd := rfl
@[simp] theorem State.writeStatus_busy (s : State) (v : Word) : (s.writeStatus v).busy = s.busy := rfl
@[simp] theorem State.writeStatus_done (s : State) (v : Word) : (s.writeStatus v).done = (s.done && !v.getLsbD 1) := rfl
@[simp] theorem State.writeStatus_hvalid (s : State) (v : Word) : (s.writeStatus v).hvalid = s.hvalid := rfl
@[simp] theorem State.writeStatus_err (s : State) (v : Word) : (s.writeStatus v).err = s.err := rfl
@[simp] theorem State.writeStatus_aW (s : State) (v : Word) : (s.writeStatus v).aW = s.aW := rfl
@[simp] theorem State.writeStatus_aH (s : State) (v : Word) : (s.writeStatus v).aH = s.aH := rfl
@[simp] theorem State.writeStatus_bW (s : State) (v : Word) : (s.writeStatus v).bW = s.bW := rfl
@[simp] theorem State.writeStatus_bH (s : State) (v : Word) : (s.writeStatus v).bH = s.bH := rfl
@[simp] theorem State.writeStatus_oW (s : State) (v : Word) : (s.writeStatus v).oW = s.oW := rfl
@[simp] theorem State.writeStatus_oH (s : State) (v : Word) : (s.writeStatus v).oH = s.oH := rfl
@[simp] theorem State.writeStatus_low (s : State) (v : Word) : (s.writeStatus v).low = s.low := rfl
@[simp] theorem State.writeStatus_high (s : State) (v : Word) : (s.writeStatus v).high = s.high := rfl
@[simp] theorem State.writeStatus_bins (s : State) (v : Word) : (s.writeStatus v).bins = s.bins := rfl
@[simp] theorem State.writeStatus_memA (s : State) (v : Word) : (s.writeStatus v).memA = s.memA := rfl
@[simp] theorem State.writeStatus_memB (s : State) (v : Word) : (s.writeStatus v).memB = s.memB := rfl
@[simp] theorem State.writeStatus_memO (s : State) (v : Word) : (s.writeStatus v).memO = s.memO := rfl
@[simp] theorem State.writeStatus_epoch (s : State) (v : Word) : (s.writeStatus v).epoch = s.epoch := rfl
@[simp] theorem State.writeStatus_events (s : State) (v : Word) : (s.writeStatus v).events = s.events := rfl
@[simp] theorem State.writeStatus_responses (s : State) (v : Word) : (s.writeStatus v).responses = s.responses := rfl
@[simp] theorem State.writeStatus_mem (s : State) (v : Word) (x : MemId) : (s.writeStatus v).mem x = s.mem x := rfl
@[simp] theorem State.writeStatus_sample (s : State) (v : Word) (x : MemId) (i : Nat) : (s.writeStatus v).sample x i = s.sample x i := rfl
@[simp] theorem State.writeStatus_bin (s : State) (v : Word) (k : Sample) : (s.writeStatus v).bin k = s.bin k := rfl
@[simp] theorem State.writeStatus_gridSize (s : State) (v : Word) : (s.writeStatus v).gridSize = s.gridSize := rfl
@[simp] theorem State.writeStatus_gridOk (s : State) (v : Word) : (s.writeStatus v).gridOk = s.gridOk := rfl
@[simp] theorem State.writeStatus_gridsMatch (s : State) (v : Word) : (s.writeStatus v).gridsMatch = s.gridsMatch := rfl
@[simp] theorem State.writeStatus_gridSamples (s : State) (v : Word) : (s.writeStatus v).gridSamples = s.gridSamples := rfl

/-! ### putGrid -/

@[simp] theorem State.putGrid_params (s : State) (pix : Nat → Sample) : (s.putGrid pix).params = s.params := rfl
@[simp] theorem State.putGrid_cmd (s : State) (pix : Nat → Sample) : (s.putGrid pix).cmd = s.cmd := rfl
@[simp] theorem State.putGrid_busy (s : State) (pix : Nat → Sample) : (s.putGrid pix).busy = s.busy := rfl
@[simp] theorem State.putGrid_done (s : State) (pix : Nat → Sample) : (s.putGrid pix).done = s.done := rfl
@[simp] theorem State.putGrid_hvalid (s : State) (pix : Nat → Sample) : (s.putGrid pix).hvalid = s.hvalid := rfl
@[simp] theorem State.putGrid_err (s : State) (pix : Nat → Sample) : (s.putGrid pix).err = s.err := rfl
@[simp] theorem State.putGrid_aW (s : State) (pix : Nat → Sample) : (s.putGrid pix).aW = s.aW := rfl
@[simp] theorem State.putGrid_aH (s : State) (pix : Nat → Sample) : (s.putGrid pix).aH = s.aH := rfl
@[simp] theorem State.putGrid_bW (s : State) (pix : Nat → Sample) : (s.putGrid pix).bW = s.bW := rfl
@[simp] theorem State.putGrid_bH (s : State) (pix : Nat → Sample) : (s.putGrid pix).bH = s.bH := rfl
@[simp] theorem State.putGrid_oW (s : State) (pix : Nat → Sample) : (s.putGrid pix).oW = s.aW := rfl
@[simp] theorem State.putGrid_oH (s : State) (pix : Nat → Sample) : (s.putGrid pix).oH = s.aH := rfl
@[simp] theorem State.putGrid_low (s : State) (pix : Nat → Sample) : (s.putGrid pix).low = s.low := rfl
@[simp] theorem State.putGrid_high (s : State) (pix : Nat → Sample) : (s.putGrid pix).high = s.high := rfl
@[simp] theorem State.putGrid_bins (s : State) (pix : Nat → Sample) : (s.putGrid pix).bins = s.bins := rfl
@[simp] theorem State.putGrid_memA (s : State) (pix : Nat → Sample) : (s.putGrid pix).memA = s.memA := rfl
@[simp] theorem State.putGrid_memB (s : State) (pix : Nat → Sample) : (s.putGrid pix).memB = s.memB := rfl
@[simp] theorem State.putGrid_memO (s : State) (pix : Nat → Sample) : (s.putGrid pix).memO = s.memO.fill s.gridSize pix := rfl
@[simp] theorem State.putGrid_epoch (s : State) (pix : Nat → Sample) : (s.putGrid pix).epoch = s.epoch := rfl
@[simp] theorem State.putGrid_events (s : State) (pix : Nat → Sample) : (s.putGrid pix).events = s.events := rfl
@[simp] theorem State.putGrid_responses (s : State) (pix : Nat → Sample) : (s.putGrid pix).responses = s.responses := rfl
@[simp] theorem State.putGrid_bin (s : State) (pix : Nat → Sample) (k : Sample) : (s.putGrid pix).bin k = s.bin k := rfl
@[simp] theorem State.putGrid_gridSize (s : State) (pix : Nat → Sample) : (s.putGrid pix).gridSize = s.gridSize := rfl
@[simp] theorem State.putGrid_gridOk (s : State) (pix : Nat → Sample) : (s.putGrid pix).gridOk = s.gridOk := rfl
@[simp] theorem State.putGrid_gridsMatch (s : State) (pix : Nat → Sample) : (s.putGrid pix).gridsMatch = s.gridsMatch := rfl
@[simp] theorem State.putGrid_gridSamples (s : State) (pix : Nat → Sample) : (s.putGrid pix).gridSamples = s.gridSamples := rfl

/-! ### putHistogram -/

@[simp] theorem State.putHistogram_params (s : State) (b : Vector Word 256) (l h : Sample) : (s.putHistogram b l h).params = s.params := rfl
@[simp] theorem State.putHistogram_cmd (s : State) (b : Vector Word 256) (l h : Sample) : (s.putHistogram b l h).cmd = s.cmd := rfl
@[simp] theorem State.putHistogram_busy (s : State) (b : Vector Word 256) (l h : Sample) : (s.putHistogram b l h).busy = s.busy := rfl
@[simp] theorem State.putHistogram_done (s : State) (b : Vector Word 256) (l h : Sample) : (s.putHistogram b l h).done = s.done := rfl
@[simp] theorem State.putHistogram_hvalid (s : State) (b : Vector Word 256) (l h : Sample) : (s.putHistogram b l h).hvalid = true := rfl
@[simp] theorem State.putHistogram_err (s : State) (b : Vector Word 256) (l h : Sample) : (s.putHistogram b l h).err = s.err := rfl
@[simp] theorem State.putHistogram_aW (s : State) (b : Vector Word 256) (l h : Sample) : (s.putHistogram b l h).aW = s.aW := rfl
@[simp] theorem State.putHistogram_aH (s : State) (b : Vector Word 256) (l h : Sample) : (s.putHistogram b l h).aH = s.aH := rfl
@[simp] theorem State.putHistogram_bW (s : State) (b : Vector Word 256) (l h : Sample) : (s.putHistogram b l h).bW = s.bW := rfl
@[simp] theorem State.putHistogram_bH (s : State) (b : Vector Word 256) (l h : Sample) : (s.putHistogram b l h).bH = s.bH := rfl
@[simp] theorem State.putHistogram_oW (s : State) (b : Vector Word 256) (l h : Sample) : (s.putHistogram b l h).oW = s.oW := rfl
@[simp] theorem State.putHistogram_oH (s : State) (b : Vector Word 256) (l h : Sample) : (s.putHistogram b l h).oH = s.oH := rfl
@[simp] theorem State.putHistogram_low (s : State) (b : Vector Word 256) (l h : Sample) : (s.putHistogram b l h).low = l := rfl
@[simp] theorem State.putHistogram_high (s : State) (b : Vector Word 256) (l h : Sample) : (s.putHistogram b l h).high = h := rfl
@[simp] theorem State.putHistogram_bins (s : State) (b : Vector Word 256) (l h : Sample) : (s.putHistogram b l h).bins = b := rfl
@[simp] theorem State.putHistogram_memA (s : State) (b : Vector Word 256) (l h : Sample) : (s.putHistogram b l h).memA = s.memA := rfl
@[simp] theorem State.putHistogram_memB (s : State) (b : Vector Word 256) (l h : Sample) : (s.putHistogram b l h).memB = s.memB := rfl
@[simp] theorem State.putHistogram_memO (s : State) (b : Vector Word 256) (l h : Sample) : (s.putHistogram b l h).memO = s.memO := rfl
@[simp] theorem State.putHistogram_epoch (s : State) (b : Vector Word 256) (l h : Sample) : (s.putHistogram b l h).epoch = s.epoch := rfl
@[simp] theorem State.putHistogram_events (s : State) (b : Vector Word 256) (l h : Sample) : (s.putHistogram b l h).events = s.events := rfl
@[simp] theorem State.putHistogram_responses (s : State) (b : Vector Word 256) (l h : Sample) : (s.putHistogram b l h).responses = s.responses := rfl
@[simp] theorem State.putHistogram_mem (s : State) (b : Vector Word 256) (l h : Sample) (x : MemId) : (s.putHistogram b l h).mem x = s.mem x := rfl
@[simp] theorem State.putHistogram_sample (s : State) (b : Vector Word 256) (l h : Sample) (x : MemId) (i : Nat) : (s.putHistogram b l h).sample x i = s.sample x i := rfl
@[simp] theorem State.putHistogram_gridSize (s : State) (b : Vector Word 256) (l h : Sample) : (s.putHistogram b l h).gridSize = s.gridSize := rfl
@[simp] theorem State.putHistogram_gridOk (s : State) (b : Vector Word 256) (l h : Sample) : (s.putHistogram b l h).gridOk = s.gridOk := rfl
@[simp] theorem State.putHistogram_gridsMatch (s : State) (b : Vector Word 256) (l h : Sample) : (s.putHistogram b l h).gridsMatch = s.gridsMatch := rfl
@[simp] theorem State.putHistogram_gridSamples (s : State) (b : Vector Word 256) (l h : Sample) : (s.putHistogram b l h).gridSamples = s.gridSamples := rfl

/-! ### takeReset -/

@[simp] theorem State.takeReset_params (s : State) : (s.takeReset).params = s.params := rfl
@[simp] theorem State.takeReset_cmd (s : State) : (s.takeReset).cmd = 0 := rfl
@[simp] theorem State.takeReset_busy (s : State) : (s.takeReset).busy = false := rfl
@[simp] theorem State.takeReset_done (s : State) : (s.takeReset).done = false := rfl
@[simp] theorem State.takeReset_hvalid (s : State) : (s.takeReset).hvalid = false := rfl
@[simp] theorem State.takeReset_err (s : State) : (s.takeReset).err = .none := rfl
@[simp] theorem State.takeReset_aW (s : State) : (s.takeReset).aW = 0 := rfl
@[simp] theorem State.takeReset_aH (s : State) : (s.takeReset).aH = 0 := rfl
@[simp] theorem State.takeReset_bW (s : State) : (s.takeReset).bW = 0 := rfl
@[simp] theorem State.takeReset_bH (s : State) : (s.takeReset).bH = 0 := rfl
@[simp] theorem State.takeReset_oW (s : State) : (s.takeReset).oW = 0 := rfl
@[simp] theorem State.takeReset_oH (s : State) : (s.takeReset).oH = 0 := rfl
@[simp] theorem State.takeReset_low (s : State) : (s.takeReset).low = 0 := rfl
@[simp] theorem State.takeReset_high (s : State) : (s.takeReset).high = 0 := rfl
@[simp] theorem State.takeReset_bins (s : State) : (s.takeReset).bins = resetBins s.params (s.epoch + 1) := rfl
@[simp] theorem State.takeReset_memA (s : State) : (s.takeReset).memA = [] := rfl
@[simp] theorem State.takeReset_memB (s : State) : (s.takeReset).memB = [] := rfl
@[simp] theorem State.takeReset_memO (s : State) : (s.takeReset).memO = [] := rfl
@[simp] theorem State.takeReset_epoch (s : State) : (s.takeReset).epoch = s.epoch + 1 := rfl
@[simp] theorem State.takeReset_events (s : State) : (s.takeReset).events = s.events := rfl
@[simp] theorem State.takeReset_responses (s : State) : (s.takeReset).responses = s.responses := rfl
@[simp] theorem State.takeReset_mem (s : State) (x : MemId) : s.takeReset.mem x = [] := by cases x <;> rfl

/-! ### setMem -/

@[simp] theorem State.setMem_params (s : State) (x : MemId) (m : Memory) : (s.setMem x m).params = s.params := by cases x <;> rfl
@[simp] theorem State.setMem_cmd (s : State) (x : MemId) (m : Memory) : (s.setMem x m).cmd = s.cmd := by cases x <;> rfl
@[simp] theorem State.setMem_busy (s : State) (x : MemId) (m : Memory) : (s.setMem x m).busy = s.busy := by cases x <;> rfl
@[simp] theorem State.setMem_done (s : State) (x : MemId) (m : Memory) : (s.setMem x m).done = s.done := by cases x <;> rfl
@[simp] theorem State.setMem_err (s : State) (x : MemId) (m : Memory) : (s.setMem x m).err = s.err := by cases x <;> rfl
@[simp] theorem State.setMem_aW (s : State) (x : MemId) (m : Memory) : (s.setMem x m).aW = s.aW := by cases x <;> rfl
@[simp] theorem State.setMem_aH (s : State) (x : MemId) (m : Memory) : (s.setMem x m).aH = s.aH := by cases x <;> rfl
@[simp] theorem State.setMem_bW (s : State) (x : MemId) (m : Memory) : (s.setMem x m).bW = s.bW := by cases x <;> rfl
@[simp] theorem State.setMem_bH (s : State) (x : MemId) (m : Memory) : (s.setMem x m).bH = s.bH := by cases x <;> rfl
@[simp] theorem State.setMem_oW (s : State) (x : MemId) (m : Memory) : (s.setMem x m).oW = s.oW := by cases x <;> rfl
@[simp] theorem State.setMem_oH (s : State) (x : MemId) (m : Memory) : (s.setMem x m).oH = s.oH := by cases x <;> rfl
@[simp] theorem State.setMem_low (s : State) (x : MemId) (m : Memory) : (s.setMem x m).low = s.low := by cases x <;> rfl
@[simp] theorem State.setMem_high (s : State) (x : MemId) (m : Memory) : (s.setMem x m).high = s.high := by cases x <;> rfl
@[simp] theorem State.setMem_bins (s : State) (x : MemId) (m : Memory) : (s.setMem x m).bins = s.bins := by cases x <;> rfl
@[simp] theorem State.setMem_epoch (s : State) (x : MemId) (m : Memory) : (s.setMem x m).epoch = s.epoch := by cases x <;> rfl
@[simp] theorem State.setMem_events (s : State) (x : MemId) (m : Memory) : (s.setMem x m).events = s.events := by cases x <;> rfl
@[simp] theorem State.setMem_responses (s : State) (x : MemId) (m : Memory) : (s.setMem x m).responses = s.responses := by cases x <;> rfl
@[simp] theorem State.setMem_hvalid (s : State) (x : MemId) (m : Memory) :
    (s.setMem x m).hvalid = if x = .A then false else s.hvalid := by cases x <;> rfl
@[simp] theorem State.setMem_mem (s : State) (x y : MemId) (m : Memory) :
    (s.setMem x m).mem y = if y = x then m else s.mem y := by cases x <;> cases y <;> rfl
@[simp] theorem State.setMem_bin (s : State) (x : MemId) (m : Memory) (k : Sample) : (s.setMem x m).bin k = s.bin k := by
  cases x <;> rfl
@[simp] theorem State.setMem_gridSize (s : State) (x : MemId) (m : Memory) : (s.setMem x m).gridSize = s.gridSize := by
  cases x <;> rfl
@[simp] theorem State.setMem_gridOk (s : State) (x : MemId) (m : Memory) : (s.setMem x m).gridOk = s.gridOk := by
  cases x <;> rfl
@[simp] theorem State.setMem_gridsMatch (s : State) (x : MemId) (m : Memory) : (s.setMem x m).gridsMatch = s.gridsMatch := by
  cases x <;> rfl

/-! ### withFetchWord -/

@[simp] theorem State.withFetchWord_params (s : State) (n w : Nat) : (s.withFetchWord n w).params = s.params := rfl
@[simp] theorem State.withFetchWord_cmd (s : State) (n w : Nat) : (s.withFetchWord n w).cmd = s.cmd := rfl
@[simp] theorem State.withFetchWord_busy (s : State) (n w : Nat) : (s.withFetchWord n w).busy = false := rfl
@[simp] theorem State.withFetchWord_done (s : State) (n w : Nat) : (s.withFetchWord n w).done = s.done := rfl
@[simp] theorem State.withFetchWord_hvalid (s : State) (n w : Nat) : (s.withFetchWord n w).hvalid = s.hvalid := rfl
@[simp] theorem State.withFetchWord_err (s : State) (n w : Nat) : (s.withFetchWord n w).err = s.err := rfl
@[simp] theorem State.withFetchWord_aW (s : State) (n w : Nat) : (s.withFetchWord n w).aW = s.aW := rfl
@[simp] theorem State.withFetchWord_aH (s : State) (n w : Nat) : (s.withFetchWord n w).aH = s.aH := rfl
@[simp] theorem State.withFetchWord_bW (s : State) (n w : Nat) : (s.withFetchWord n w).bW = s.bW := rfl
@[simp] theorem State.withFetchWord_bH (s : State) (n w : Nat) : (s.withFetchWord n w).bH = s.bH := rfl
@[simp] theorem State.withFetchWord_oW (s : State) (n w : Nat) : (s.withFetchWord n w).oW = s.oW := rfl
@[simp] theorem State.withFetchWord_oH (s : State) (n w : Nat) : (s.withFetchWord n w).oH = s.oH := rfl
@[simp] theorem State.withFetchWord_low (s : State) (n w : Nat) : (s.withFetchWord n w).low = s.low := rfl
@[simp] theorem State.withFetchWord_high (s : State) (n w : Nat) : (s.withFetchWord n w).high = s.high := rfl
@[simp] theorem State.withFetchWord_bins (s : State) (n w : Nat) : (s.withFetchWord n w).bins = s.bins := rfl
@[simp] theorem State.withFetchWord_memA (s : State) (n w : Nat) : (s.withFetchWord n w).memA = s.memA := rfl
@[simp] theorem State.withFetchWord_memB (s : State) (n w : Nat) : (s.withFetchWord n w).memB = s.memB := rfl
@[simp] theorem State.withFetchWord_memO (s : State) (n w : Nat) : (s.withFetchWord n w).memO = s.memO := rfl
@[simp] theorem State.withFetchWord_epoch (s : State) (n w : Nat) : (s.withFetchWord n w).epoch = s.epoch := rfl
@[simp] theorem State.withFetchWord_events (s : State) (n w : Nat) : (s.withFetchWord n w).events = .host ⟨0x08, .write4 (BitVec.ofNat 32 (w % 2 ^ n))⟩ :: s.events := rfl
@[simp] theorem State.withFetchWord_responses (s : State) (n w : Nat) : (s.withFetchWord n w).responses = s.responses := rfl

/-! ### mem -/

@[simp] theorem State.mem_A (s : State) : s.mem .A = s.memA := rfl
@[simp] theorem State.mem_B (s : State) : s.mem .B = s.memB := rfl
@[simp] theorem State.mem_O (s : State) : s.mem .O = s.memO := rfl

end Sys2Proof.Machine
end

