-- ==== Sys2Proof/Laws/Memory.lean ====
section
/-! SUPPORT. The laws of the sample memories: reading after each write, and that every memory operation keeps the
canonical form and the size. The read laws need no canonical form. -/

namespace Sys2Proof.Machine

/-! ### Reads after writes -/

theorem Memory.read?_write (m : Memory) (i j : Nat) (v : Sample) :
    (Memory.write m i v).read? j = if j = i then some v else Memory.read? m j := by
  induction m with
  | nil => simp [Memory.write, Memory.read?, eq_comm]
  | cons c m ih =>
    simp only [Memory.write]
    split_ifs with h1 h2 h3 h4 h5 <;> simp_all [Memory.read?] <;> grind

theorem Memory.read?_map_range (n : Nat) (f : Nat → Sample) (j : Nat) (m : Memory) :
    Memory.read? ((List.range n).map (fun i => (i, f i)) ++ m) j = if j < n then some (f j) else Memory.read? m j := by
  induction n generalizing m with
  | zero => simp
  | succ n ih =>
    rw [List.range_succ, List.map_append, List.append_assoc, ih]
    by_cases h : j < n
    · simp [h, Nat.lt_succ_of_lt h]
    · by_cases h' : j = n
      · subst h'; simp [Memory.read?]
      · have : ¬ j < n + 1 := by omega
        simp [h, this, Memory.read?, Ne.symm h']

theorem Memory.read?_filter (n : Nat) (m : Memory) (j : Nat) (h : n ≤ j) :
    Memory.read? (m.filter (fun c => decide (n ≤ c.1))) j = Memory.read? m j := by
  induction m with
  | nil => rfl
  | cons c m ih =>
    by_cases hc : n ≤ c.1
    · simp [hc, Memory.read?, ih]
    · have : c.1 ≠ j := by omega
      simp [hc, Memory.read?, ih, this]

theorem Memory.read?_fill (n : Nat) (f : Nat → Sample) (m : Memory) (j : Nat) :
    (Memory.fill n f m).read? j = if j < n then some (f j) else Memory.read? m j := by
  rw [Memory.fill, Memory.read?_map_range]
  split_ifs with h
  · rfl
  · exact Memory.read?_filter n m j (by omega)

theorem Memory.read?_writeWord (m : Memory) (i j : Nat) (v : Word) :
    (Memory.writeWord m i v).read? j =
      if j = i + 3 then some (v.extractLsb' 24 8) else if j = i + 2 then some (v.extractLsb' 16 8)
      else if j = i + 1 then some (v.extractLsb' 8 8) else if j = i then some (v.extractLsb' 0 8)
      else Memory.read? m j := by
  simp only [Memory.writeWord, Memory.read?_write]

/-! ### The canonical form -/

theorem Memory.fst_mem_write {m : Memory} {i : Nat} {v : Sample} {c : Host.Cell} (h : c ∈ Memory.write m i v) :
    c.1 = i ∨ c ∈ m := by
  induction m with
  | nil => simp [Memory.write] at h; simp [h]
  | cons d m ih =>
    simp only [Memory.write] at h
    split_ifs at h with h1 h2 <;> simp only [List.mem_cons] at h ⊢
    · rcases h with rfl | rfl | h <;> simp_all
    · rcases h with rfl | h <;> simp_all
    · rcases h with rfl | h
      · simp
      · rcases ih h with h | h <;> simp [h]

theorem Memory.write_wf {m : Memory} (h : m.wf) (i : Nat) (v : Sample) : (Memory.write m i v).wf := by
  induction m with
  | nil => simp [Memory.write]
  | cons c m ih =>
    obtain ⟨hc, hm⟩ := List.pairwise_cons.mp h
    simp only [Memory.write]
    split_ifs with h1 h2
    · refine List.pairwise_cons.mpr ⟨fun d hd => ?_, h⟩
      rcases List.mem_cons.mp hd with rfl | hd
      · exact h1
      · exact lt_trans h1 (hc d hd)
    · subst h2; exact List.pairwise_cons.mpr ⟨hc, hm⟩
    · refine List.pairwise_cons.mpr ⟨fun d hd => ?_, ih hm⟩
      rcases Memory.fst_mem_write hd with h' | h'
      · simp only [h']; omega
      · exact hc d h'

theorem Memory.writeWord_wf {m : Memory} (h : m.wf) (i : Nat) (v : Word) : (Memory.writeWord m i v).wf :=
  write_wf (write_wf (write_wf (write_wf h _ _) _ _) _ _) _ _

theorem Memory.fill_wf {m : Memory} (h : m.wf) (n : Nat) (f : Nat → Sample) : (Memory.fill n f m).wf := by
  refine List.pairwise_append.mpr ⟨?_, h.filter _, ?_⟩
  · rw [List.pairwise_map]
    exact List.pairwise_lt_range
  · intro c hc d hd
    simp only [List.mem_map, List.mem_range, List.mem_filter, decide_eq_true_eq] at hc hd
    obtain ⟨i, hi, rfl⟩ := hc
    exact lt_of_lt_of_le hi hd.2

/-! ### The size -/

theorem Memory.write_within {m : Memory} {size i : Nat} (h : m.within size) (hi : i < size) (v : Sample) :
    (Memory.write m i v).within size := by
  intro c hc
  rcases Memory.fst_mem_write hc with h' | h'
  · omega
  · exact h c h'

theorem Memory.writeWord_within {m : Memory} {size i : Nat} (h : m.within size) (hi : i + 3 < size) (v : Word) :
    (Memory.writeWord m i v).within size :=
  write_within (write_within (write_within (write_within h (by omega) _) (by omega) _) (by omega) _) (by omega) _

theorem Memory.fill_within {m : Memory} {size n : Nat} (h : m.within size) (hn : n ≤ size) (f : Nat → Sample) :
    (Memory.fill n f m).within size := by
  intro c hc
  simp only [Memory.fill, List.mem_append, List.mem_map, List.mem_range, List.mem_filter] at hc
  rcases hc with ⟨i, hi, rfl⟩ | ⟨hc, -⟩
  · exact lt_of_lt_of_le hi hn
  · exact h c hc

/-! ### Samples of the machine -/

theorem State.sample_of_mem_eq {s t : State} {x : MemId} (hm : t.mem x = s.mem x) (he : t.epoch = s.epoch) (i : Nat) :
    t.sample x i = s.sample x i := by
  simp only [State.sample, hm, he]

theorem State.putGrid_sample_O (s : State) (pix : Nat → Sample) (i : Nat) :
    (s.putGrid pix).sample .O i = if i < s.gridSize then pix i else s.sample .O i := by
  simp only [State.sample, State.mem_O, State.putGrid_memO, State.putGrid_epoch, Memory.read?_fill]
  split_ifs <;> rfl

theorem State.setMem_write_sample (s : State) (x y : MemId) (i j : Nat) (v : Sample) :
    (s.setMem x ((s.mem x).write i v)).sample y j = if y = x ∧ j = i then v else s.sample y j := by
  simp only [State.sample, State.setMem_mem, State.setMem_epoch]
  by_cases hy : y = x
  · subst hy
    simp only [if_true, Memory.read?_write, true_and]
    split_ifs <;> rfl
  · simp [hy]

end Sys2Proof.Machine
end

