-- ==== Sys2Proof/Laws/Ops.lean ====
section
/-! SUPPORT. One law per shared operation of the commands, and what `exec` does in each phase. -/

namespace Sys2Proof.Machine

/-! ### Checks -/

theorem State.gridOk_iff (s : State) :
    s.gridOk = true ↔ s.aW ≠ 0 ∧ s.aH ≠ 0 ∧ s.gridSize ≤ s.params.maxSamples := by
  simp [State.gridOk, and_assoc]

theorem State.gridsMatch_iff (s : State) : s.gridsMatch = true ↔ s.bW = s.aW ∧ s.bH = s.aH := by
  simp [State.gridsMatch]

theorem Dim.toNat_pos {d : Dim} (h : d ≠ 0) : 0 < d.toNat := by
  rcases Nat.eq_zero_or_pos d.toNat with h0 | h0
  · exact absurd (BitVec.eq_of_toNat_eq (by simpa using h0)) h
  · exact h0

theorem State.gridSize_pos {s : State} (h : s.gridOk = true) : 0 < s.gridSize :=
  Nat.mul_pos (Dim.toNat_pos ((s.gridOk_iff.mp h).1)) (Dim.toNat_pos ((s.gridOk_iff.mp h).2.1))

theorem State.gridSize_le {s : State} (h : s.gridOk = true) : s.gridSize ≤ s.params.maxSamples :=
  (s.gridOk_iff.mp h).2.2

theorem State.length_gridSamples (s : State) : s.gridSamples.length = s.gridSize := by simp [State.gridSamples]

/-! ### Phases -/

theorem command_busy {accept complete : State → Outcome} {s : State} (h : s.busy = true) :
    command accept complete s = complete s := by simp [command, h]

theorem command_idle {accept complete : State → Outcome} {s : State} (h : s.busy = false) :
    command accept complete s = accept s := by simp [command, h]

theorem completeGrid_ok {pix : State → Nat → Sample} {s : State} (h : s.gridOk = true) :
    completeGrid pix s = .next (s.putGrid (pix s)).finish := by simp [completeGrid, h]

/-! ### exec, phase by phase -/

/-- The output sample each grid-producing command computes for a flat index (`HIST` produces no grid). -/
def pixelOf : Instr → State → Nat → Sample
  | .hist => fun _ _ => 0
  | .bin t => fun s i => binLut t (s.sample .A i)
  | .convAvg => State.convGrid 0
  | .convGauss => State.convGrid 1
  | .convLap => State.convGrid 2
  | .convPrwx => State.convGrid 4
  | .convPrwy => State.convGrid 5
  | .edgePrw => State.edgeGrid 4 5
  | .convSblx => State.convGrid 6
  | .convSbly => State.convGrid 7
  | .edgeSbl => State.edgeGrid 6 7
  | .convHpf => State.convGrid 3
  | .max => fun s i => sampleMax (s.sample .A i) (s.sample .B i)

/-- What acceptance does once every check has passed (R191, R35). -/
def State.accept (i : Instr) (s : State) : State :=
  if i = .hist then s.clearHvalid.startBusy else s.startBusy

theorem exec_busy_grid {i : Instr} (hi : i ≠ .hist) {s : State} (h : s.busy = true) :
    exec i s = completeGrid (pixelOf i) s := by
  cases i <;> first | exact absurd rfl hi | exact command_busy h

theorem exec_busy_hist {s : State} (h : s.busy = true) : exec .hist s = completeHist s := command_busy h

/-- A grid-producing command completes wherever it was accepted. -/
theorem exec_completes_grid {i : Instr} (hi : i ≠ .hist) {s : State} (h : s.busy = true) (hg : s.gridOk = true) :
    exec i s = .next (s.putGrid (pixelOf i s)).finish := by
  rw [exec_busy_grid hi h, completeGrid_ok hg]

/-- Acceptance, whole: the checks in the order of R191. -/
theorem exec_idle {i : Instr} {s : State} (h : s.busy = false) :
    exec i s = .next (if s.gridOk then
        if i = .max ∧ s.gridsMatch = false then s.raiseCmdError .dimMismatch else s.accept i
      else s.raiseCmdError .badDim) := by
  cases i <;>
    simp [exec, execHist, execBin, execConvAvg, execConvGauss, execConvLap, execConvPrwx, execConvPrwy, execEdgePrw,
      execConvSblx, execConvSbly, execEdgeSbl, execConvHpf, execMax, gridCommand, command_idle h, acceptGrid,
      acceptGrids, State.accept] <;>
    split_ifs <;> simp_all

/-! ### Border and interior of a stencil (R131, R132) -/

theorem State.stencilAt_interior {s : State} {value : Nat → Nat → Sample} {row col : Nat} (hc : col < s.aW.toNat)
    (hi : interior s.aW.toNat s.aH.toNat row col = true) :
    s.stencilAt value (row * s.aW.toNat + col) = value row col := by
  have hw : 0 < s.aW.toNat := by omega
  have h1 : (row * s.aW.toNat + col) / s.aW.toNat = row := by
    rw [Nat.mul_comm, Nat.mul_add_div hw, Nat.div_eq_of_lt hc, Nat.add_zero]
  have h2 : (row * s.aW.toNat + col) % s.aW.toNat = col := by
    rw [Nat.mul_comm, Nat.mul_add_mod, Nat.mod_eq_of_lt hc]
  simp [State.stencilAt, h1, h2, hi]

theorem State.stencilAt_border {s : State} {value : Nat → Nat → Sample} {row col : Nat} (hc : col < s.aW.toNat)
    (hi : interior s.aW.toNat s.aH.toNat row col = false) :
    s.stencilAt value (row * s.aW.toNat + col) = 0 := by
  have hw : 0 < s.aW.toNat := by omega
  have h1 : (row * s.aW.toNat + col) / s.aW.toNat = row := by
    rw [Nat.mul_comm, Nat.mul_add_div hw, Nat.div_eq_of_lt hc, Nat.add_zero]
  have h2 : (row * s.aW.toNat + col) % s.aW.toNat = col := by
    rw [Nat.mul_comm, Nat.mul_add_mod, Nat.mod_eq_of_lt hc]
  simp [State.stencilAt, h1, h2, hi]

/-- The index of a pixel lies in the grid (10_state.md R38). -/
theorem pixel_index_lt {w h row col : Nat} (hr : row < h) (hc : col < w) : row * w + col < w * h := by
  calc row * w + col < row * w + w := by omega
    _ = (row + 1) * w := by ring
    _ ≤ h * w := Nat.mul_le_mul_right _ hr
    _ = w * h := Nat.mul_comm _ _

theorem interior_iff {w h row col : Nat} :
    interior w h row col = true ↔ 1 ≤ row ∧ row + 2 ≤ h ∧ 1 ≤ col ∧ col + 2 ≤ w := by
  simp [interior, and_assoc]

end Sys2Proof.Machine
end

