-- ==== Sys2Proof/Laws/Params.lean ====
section
/-! SUPPORT. What the well-formedness of the parameters gives (00_scope.md R6, R7; 42_convolution.md R133). -/

namespace Sys2Proof

/-- Every conjunct of `ParamValues.wf`. -/
theorem Params.facts (p : Params) :
    12 ≤ p.addrW ∧ p.addrW ≤ 30 ∧ 1 ≤ p.dimW ∧ p.dimW ≤ 16 ∧ 2 ^ p.addrW < 2 ^ p.cntW ∧ p.cntW ≤ 32
      ∧ (∀ K ∈ p.values.klib.toList, K.wf = true) ∧ p.values.klib.toList.map Kernel.policy = fixedPolicies
      ∧ p.values.klib.toList.map Kernel.scale = fixedScales := by
  have h := p.ok
  simp only [ParamValues.wf, Bool.and_eq_true, decide_eq_true_eq, List.all_eq_true] at h
  simp only [Params.addrW, Params.dimW, Params.cntW]
  tauto

theorem Params.maxSamples_pos (p : Params) : 0 < p.maxSamples := Nat.two_pow_pos _

theorem Params.maxSamples_ge (p : Params) : 4096 ≤ p.maxSamples :=
  Nat.pow_le_pow_right (n := 2) (by omega) p.facts.1

/-- `S` is a multiple of 4 (20_memory.md R65). -/
theorem Params.four_dvd_maxSamples (p : Params) : p.maxSamples % 4 = 0 := by
  obtain ⟨k, hk⟩ := Nat.exists_eq_add_of_le p.facts.1
  rw [Params.maxSamples, hk, Nat.pow_add]
  omega

theorem Params.maxSamples_le (p : Params) : p.maxSamples ≤ 2 ^ 30 :=
  Nat.pow_le_pow_right (by omega) p.facts.2.1

theorem Params.maxSamples_lt_count (p : Params) : p.maxSamples < 2 ^ p.cntW := p.facts.2.2.2.2.1

theorem Params.count_le (p : Params) : 2 ^ p.cntW ≤ 2 ^ 32 := Nat.pow_le_pow_right (by omega) p.facts.2.2.2.2.2.1

theorem Params.dim_le (p : Params) : 2 ^ p.dimW ≤ 2 ^ 16 := Nat.pow_le_pow_right (by omega) p.facts.2.2.2.1

theorem Params.kernel_mem (p : Params) (q : Fin 8) : p.kernel q ∈ p.values.klib.toList := by
  simp [Params.kernel]

theorem Params.kernel_wf (p : Params) (q : Fin 8) : (p.kernel q).wf = true :=
  p.facts.2.2.2.2.2.2.1 _ (p.kernel_mem q)

theorem Params.kernel_policy (p : Params) (q : Fin 8) : (p.kernel q).policy = fixedPolicies.getD q.val .direct := by
  rw [← p.facts.2.2.2.2.2.2.2.1]
  simp [Params.kernel, List.getD_eq_getElem?_getD]

theorem Params.kernel_scale (p : Params) (q : Fin 8) : (p.kernel q).scale = fixedScales.getD q.val 0 := by
  rw [← p.facts.2.2.2.2.2.2.2.2]
  simp [Params.kernel, List.getD_eq_getElem?_getD]

theorem Kernel.wf_facts {K : Kernel} (h : K.wf = true) :
    1 ≤ K.den.toNat ∧ 1 ≤ K.scale.toNat ∧ K.policyWf = true := by
  simp only [Kernel.wf, Bool.and_eq_true, decide_eq_true_eq] at h
  tauto

/-- The numerators in row-major order are the coefficients. -/
theorem Kernel.numerators_eq (K : Kernel) :
    K.numerators = [K.coef 0 0, K.coef 0 1, K.coef 0 2, K.coef 1 0, K.coef 1 1, K.coef 1 2, K.coef 2 0, K.coef 2 1,
      K.coef 2 2] := by
  refine List.ext_getElem (by simp [Kernel.numerators]) fun n h1 h2 => ?_
  simp only [List.length_cons, List.length_nil] at h2
  interval_cases n <;> simp [Kernel.numerators, Kernel.coef]

end Sys2Proof
end

