-- ==== Sys2Proof/Laws/Histogram.lean ====
section
/-! SUPPORT. The laws of the histogram accumulator: a bin counts the samples of its intensity (10_state.md R34), `LOW`
and `HIGH` are the least and greatest occupied intensity (40_histogram.md R112). -/

namespace Sys2Proof.Machine

theorem binOf_incrementBin (c : Nat) (b : Vector Word 256) (k j : Sample) :
    binOf (incrementBin c b k) j = if j = k then BitVec.ofNat 32 (((binOf b k).toNat + 1) % 2 ^ c) else binOf b j := by
  simp only [binOf, incrementBin, Vector.getElem_set]
  by_cases h : j = k
  · simp [h]
  · have : ¬ k.toNat = j.toNat := fun e => h (BitVec.eq_of_toNat_eq e.symm)
    simp [h, this]

theorem binOf_clearBins (k : Sample) : binOf clearBins k = 0 := by simp [binOf, clearBins]

theorem binOf_foldl_increment {c : Nat} (hc : 2 ^ c ≤ 2 ^ 32) (l : List Sample) :
    ∀ (b : Vector Word 256), (∀ k, (binOf b k).toNat + l.length < 2 ^ c) → ∀ k,
      (binOf (l.foldl (incrementBin c) b) k).toNat = (binOf b k).toNat + l.count k := by
  induction l with
  | nil => simp
  | cons a l ih =>
    intro b hb k
    have step : ∀ k, (binOf (incrementBin c b a) k).toNat = (binOf b k).toNat + if a = k then 1 else 0 := by
      intro k
      rw [binOf_incrementBin]
      by_cases h : k = a
      · subst h
        have := hb k
        simp only [List.length_cons] at this
        rw [if_pos rfl, if_pos rfl, BitVec.toNat_ofNat, Nat.mod_eq_of_lt (by omega), Nat.mod_eq_of_lt (by omega)]
      · rw [if_neg h, if_neg (Ne.symm h), Nat.add_zero]
    rw [List.foldl_cons, ih, step, List.count_cons]
    · simp only [beq_iff_eq]; omega
    · intro k
      have := hb k
      rw [step]
      simp only [List.length_cons] at this
      split_ifs <;> omega

/-- R34: a bin is the number of samples of its intensity. -/
theorem binOf_buildBins {c : Nat} (hc : 2 ^ c ≤ 2 ^ 32) {l : List Sample} (hl : l.length < 2 ^ c) (k : Sample) :
    (binOf (buildBins c l) k).toNat = l.count k := by
  rw [buildBins, binOf_foldl_increment hc l clearBins (by simpa [binOf_clearBins] using hl), binOf_clearBins]
  simp

theorem mem_intensities (k : Sample) : k ∈ intensities := by
  simp only [intensities, List.mem_map, List.mem_range]
  exact ⟨k.toNat, k.isLt, by simp⟩

theorem intensities_sorted : intensities.Pairwise (fun a b => a.toNat < b.toNat) := by
  rw [intensities, List.pairwise_map]
  refine List.Pairwise.imp_of_mem ?_ List.pairwise_lt_range
  intro a b ha hb hab
  simp only [List.mem_range] at ha hb
  simpa [BitVec.toNat_ofNat, Nat.mod_eq_of_lt ha, Nat.mod_eq_of_lt hb] using hab

/-- In a list sorted by `R`, the first hit of `find?` stands in relation `R` to every other hit. -/
theorem find?_first {α : Type} {R : α → α → Prop} {p : α → Bool} {l : List α} (hs : l.Pairwise R) {a b : α}
    (ha : l.find? p = some a) (hb : b ∈ l) (hp : p b = true) : a = b ∨ R a b := by
  induction l with
  | nil => simp at hb
  | cons c l ih =>
    obtain ⟨hc, hl⟩ := List.pairwise_cons.mp hs
    by_cases hpc : p c = true
    · rw [List.find?_cons_of_pos hpc] at ha
      cases ha
      rcases List.mem_cons.mp hb with rfl | hb
      · exact .inl rfl
      · exact .inr (hc b hb)
    · rw [List.find?_cons_of_neg hpc] at ha
      rcases List.mem_cons.mp hb with rfl | hb
      · exact absurd hp hpc
      · exact ih hl ha hb

theorem lowestOccupied_spec {b : Vector Word 256} {k : Sample} (h : lowestOccupied b = some k) :
    binOf b k ≠ 0 ∧ ∀ j, binOf b j ≠ 0 → k.toNat ≤ j.toNat := by
  refine ⟨by simpa using List.find?_some h, fun j hj => ?_⟩
  rcases find?_first intensities_sorted h (mem_intensities j) (by simpa using hj) with rfl | h
  · exact le_rfl
  · exact le_of_lt h

theorem highestOccupied_spec {b : Vector Word 256} {k : Sample} (h : highestOccupied b = some k) :
    binOf b k ≠ 0 ∧ ∀ j, binOf b j ≠ 0 → j.toNat ≤ k.toNat := by
  refine ⟨by simpa using List.find?_some h, fun j hj => ?_⟩
  rcases find?_first (R := fun a b => b.toNat < a.toNat) (List.pairwise_reverse.mpr intensities_sorted) h
    (List.mem_reverse.mpr (mem_intensities j)) (by simpa using hj) with rfl | h
  · exact le_rfl
  · exact le_of_lt h

theorem lowestOccupied_exists {b : Vector Word 256} {k : Sample} (h : binOf b k ≠ 0) :
    ∃ l, lowestOccupied b = some l :=
  Option.isSome_iff_exists.mp (List.find?_isSome.mpr ⟨k, mem_intensities k, by simpa using h⟩)

theorem highestOccupied_exists {b : Vector Word 256} {k : Sample} (h : binOf b k ≠ 0) :
    ∃ l, highestOccupied b = some l :=
  Option.isSome_iff_exists.mp
    (List.find?_isSome.mpr ⟨k, List.mem_reverse.mpr (mem_intensities k), by simpa using h⟩)

/-- The bins `HIST` builds from grid A. -/
theorem binOf_buildBins_grid {s : State} (hg : s.gridOk = true) (k : Sample) :
    (binOf (buildBins s.params.cntW s.gridSamples) k).toNat = s.gridSamples.count k :=
  binOf_buildBins s.params.count_le
    (by rw [s.length_gridSamples]; exact lt_of_le_of_lt (State.gridSize_le hg) s.params.maxSamples_lt_count) k

theorem binOf_ne_zero_iff {s : State} (hg : s.gridOk = true) (k : Sample) :
    binOf (buildBins s.params.cntW s.gridSamples) k ≠ 0 ↔ k ∈ s.gridSamples := by
  rw [← List.count_pos_iff, ← binOf_buildBins_grid hg, Nat.pos_iff_ne_zero, Ne, Ne,
    ← BitVec.toNat_inj (y := 0)]
  rfl

/-- The completing step of `HIST`, whole: with a valid grid A it answers a next state, with the bins counted and `LOW`,
`HIGH` the bounds of the samples that occur (R111, R112). -/
theorem completeHist_ok {s : State} (hg : s.gridOk = true) :
    ∃ low high, completeHist s
        = .next (s.putHistogram (buildBins s.params.cntW s.gridSamples) low high).finish
      ∧ low ∈ s.gridSamples ∧ high ∈ s.gridSamples
      ∧ (∀ k ∈ s.gridSamples, low.toNat ≤ k.toNat) ∧ (∀ k ∈ s.gridSamples, k.toNat ≤ high.toNat) := by
  have hpos := State.gridSize_pos hg
  obtain ⟨k, hk⟩ : ∃ k, k ∈ s.gridSamples :=
    List.exists_mem_of_length_pos (by rw [s.length_gridSamples]; exact hpos)
  obtain ⟨l, hl⟩ := lowestOccupied_exists ((binOf_ne_zero_iff hg k).mpr hk)
  obtain ⟨h, hh⟩ := highestOccupied_exists ((binOf_ne_zero_iff hg k).mpr hk)
  obtain ⟨l1, l2⟩ := lowestOccupied_spec hl
  obtain ⟨h1, h2⟩ := highestOccupied_spec hh
  refine ⟨l, h, by simp [completeHist, hg, hl, hh], (binOf_ne_zero_iff hg l).mp l1, (binOf_ne_zero_iff hg h).mp h1,
    fun j hj => l2 j ((binOf_ne_zero_iff hg j).mpr hj), fun j hj => h2 j ((binOf_ne_zero_iff hg j).mpr hj)⟩

end Sys2Proof.Machine
end

