-- ==== Sys2Proof/Laws/Step.lean ====
section
/-! SUPPORT. Inversion laws: everything that a command, a host transaction, the engine and a step can do when they
answer a next state. Invariants are proved from these, without unfolding `step` again. -/

namespace Sys2Proof.Machine

/-! ### Commands -/

/-- Everything a completing step can do. -/
inductive Completed (i : Instr) (s : State) : State → Prop where
  | grid (hi : i ≠ .hist) (hg : s.gridOk = true) : Completed i s (s.putGrid (pixelOf i s)).finish
  | hist (hi : i = .hist) (hg : s.gridOk = true) (low high : Sample) (hl : low ∈ s.gridSamples)
      (hh : high ∈ s.gridSamples) (least : ∀ k ∈ s.gridSamples, low.toNat ≤ k.toNat)
      (greatest : ∀ k ∈ s.gridSamples, k.toNat ≤ high.toNat) :
      Completed i s (s.putHistogram (buildBins s.params.cntW s.gridSamples) low high).finish

theorem exec_busy_next {i : Instr} {s t : State} (hb : s.busy = true) (h : exec i s = .next t) : Completed i s t := by
  by_cases hi : i = .hist
  · subst hi
    rw [exec_busy_hist hb] at h
    by_cases hg : s.gridOk = true
    · obtain ⟨l, u, he, h1, h2, h3, h4⟩ := completeHist_ok hg
      rw [he] at h
      cases h
      exact .hist rfl hg l u h1 h2 h3 h4
    · simp [completeHist, hg] at h
  · rw [exec_busy_grid hi hb] at h
    by_cases hg : s.gridOk = true
    · rw [completeGrid_ok hg] at h
      cases h
      exact .grid hi hg
    · simp [completeGrid, hg] at h

/-- A busy machine with a valid grid A completes any command. -/
theorem exec_completes {i : Instr} {s : State} (hb : s.busy = true) (hg : s.gridOk = true) :
    ∃ t, exec i s = .next t := by
  by_cases hi : i = .hist
  · subst hi
    obtain ⟨l, u, he, -⟩ := completeHist_ok hg
    exact ⟨_, (exec_busy_hist hb).trans he⟩
  · exact ⟨_, exec_completes_grid hi hb hg⟩

/-- Everything an accepted `CMD` write of `w` can leave, from the state `u` with the word latched. -/
inductive Issued (w : Word) (u : State) : State → Prop where
  | illegal (why : Illegal) (hd : decode w = .illegal why) : Issued w u (u.raiseCmdError .illegalOp)
  | badDim (i : Instr) (hd : decode w = .instr i) (hg : u.gridOk = false) : Issued w u (u.raiseCmdError .badDim)
  | mismatch (hd : decode w = .instr .max) (hg : u.gridOk = true) (hm : u.gridsMatch = false) :
      Issued w u (u.raiseCmdError .dimMismatch)
  | accepted (i : Instr) (hd : decode w = .instr i) (hg : u.gridOk = true) (hm : i = .max → u.gridsMatch = true) :
      Issued w u (u.accept i)

/-- An accepted `CMD` write always answers a next state. -/
theorem issueCommand_next (w : Word) {s : State} (hb : s.busy = false) :
    ∃ t, issueCommand w s = .next t ∧ Issued w (s.latchCommand w) t := by
  rcases hd : decode w with i | why
  · simp only [issueCommand, hd, exec_idle (s := s.latchCommand w) hb]
    refine ⟨_, rfl, ?_⟩
    split_ifs with hg hm
    · obtain ⟨rfl, hm⟩ := hm
      exact .mismatch hd hg hm
    · exact .accepted i hd hg fun he => by simpa [he] using hm
    · exact .badDim i hd (by simpa using hg)
  · exact ⟨_, by simp only [issueCommand, hd], .illegal why hd⟩

/-! ### The bus -/

theorem State.busError_none {s : State} {a : Transaction} (h : s.busError a = none) :
    (s.busy = true → a.access.isWrite = false ∧ (regionOf s.params a.addr).pollable = true)
      ∧ regionOf s.params a.addr ≠ .unmapped
      ∧ (regionOf s.params a.addr).sizeOk a.addr a.access.size = true
      ∧ (a.access.isWrite = true → (regionOf s.params a.addr).readOnly = false) := by
  simp only [State.busError] at h
  split_ifs at h with h1 h2 h3 h4
  simp_all

/-- Which multiple of `2^ADDR_W` a window begins at (20_memory.md R61). -/
def windowRank : MemId → Nat
  | .A => 1
  | .B => 2
  | .O => 3

/-- A window's index lies in its memory (20_memory.md R61), and an aligned word in a window never crosses its end
(R65). -/
theorem regionOf_window {p : Params} {addr : Nat} {x : MemId} {i : Nat} (ha : addr < 4 * p.maxSamples)
    (h : regionOf p addr = .window x i) :
    i < p.maxSamples ∧ (addr % 4 = 0 → i + 3 < p.maxSamples)
      ∧ addr = windowRank x * p.maxSamples + i := by
  have h4 := p.four_dvd_maxSamples
  have := p.maxSamples_ge
  simp only [regionOf] at h
  split_ifs at h with h1 h2 h3 h4 h5 h6 h7
  · split at h <;> simp at h
  all_goals
    simp only [Region.window.injEq] at h
    obtain ⟨rfl, rfl⟩ := h
    simp only [windowRank]
    omega

/-- Everything one host transaction can do. `s` is the state with the transaction taken off the events. -/
inductive Transacted (a : Transaction) (s : State) : State → Prop where
  | error (e : BusError) (he : s.busError a = some e) : Transacted a s (s.respond (.err e))
  | read (he : s.busError a = none) (hr : a.access.isWrite = false) (d : Word) : Transacted a s (s.respond (.okay d))
  | status (he : s.busError a = none) (hb : s.busy = false)
      (ha : regionOf s.params a.addr = .register .status) (v : Word)
      (hv : a.access = .write4 v) : Transacted a s ((s.writeStatus v).respond (.okay 0))
  | aW (he : s.busError a = none) (hb : s.busy = false)
      (ha : regionOf s.params a.addr = .register .aW) (v : Word) (hv : a.access = .write4 v) :
      Transacted a s (State.respond (.okay 0) { s with aW := dimOf s.params v, hvalid := false })
  | aH (he : s.busError a = none) (hb : s.busy = false)
      (ha : regionOf s.params a.addr = .register .aH) (v : Word) (hv : a.access = .write4 v) :
      Transacted a s (State.respond (.okay 0) { s with aH := dimOf s.params v, hvalid := false })
  | bW (he : s.busError a = none) (hb : s.busy = false)
      (ha : regionOf s.params a.addr = .register .bW) (v : Word) (hv : a.access = .write4 v) :
      Transacted a s (State.respond (.okay 0) { s with bW := dimOf s.params v })
  | bH (he : s.busError a = none) (hb : s.busy = false)
      (ha : regionOf s.params a.addr = .register .bH) (v : Word) (hv : a.access = .write4 v) :
      Transacted a s (State.respond (.okay 0) { s with bH := dimOf s.params v })
  | word (he : s.busError a = none) (hb : s.busy = false)
      (x : MemId) (i : Nat) (hx : x ≠ .O) (ha : regionOf s.params a.addr = .window x i)
      (hi : i + 3 < s.params.maxSamples) (v : Word) (hv : a.access = .write4 v) :
      Transacted a s (State.respond (.okay 0) (s.setMem x ((s.mem x).writeWord i v)))
  | byte (he : s.busError a = none) (hb : s.busy = false)
      (x : MemId) (i : Nat) (hx : x ≠ .O) (ha : regionOf s.params a.addr = .window x i)
      (hi : i < s.params.maxSamples) (v : BitVec 8) (hv : a.access = .write1 v) :
      Transacted a s (State.respond (.okay 0) (s.setMem x ((s.mem x).write i v)))
  | issue (he : s.busError a = none) (hb : s.busy = false)
      (ha : regionOf s.params a.addr = .register .cmd) (w : Word)
      (hv : a.access = .write4 w) (t : State) (ht : Issued w ((s.respond (.okay 0)).latchCommand w) t) :
      Transacted a s t

/-- A transaction inside the block's space always answers a next state, one of the above. -/
theorem hostStep_next {a : Transaction} {s : State} (ha : a.addr < 4 * s.params.maxSamples) :
    ∃ t, hostStep a s = .next t ∧ Transacted a s t := by
  have hna : ¬ 4 * s.params.maxSamples ≤ a.addr := by omega
  rcases he : s.busError a with _ | e
  swap
  · exact ⟨_, by simp only [hostStep, if_neg hna, he], .error e he⟩
  obtain ⟨hbusy, hmap, hsize, hro⟩ := State.busError_none he
  obtain ⟨addr, access⟩ := a
  cases access with
  | read1 => exact ⟨_, by simp only [hostStep, if_neg hna, he]; rfl, .read he rfl _⟩
  | read4 => exact ⟨_, by simp only [hostStep, if_neg hna, he]; rfl, .read he rfl _⟩
  | write1 v =>
    have hb : s.busy = false := by
      by_contra hb
      simpa [Access.isWrite] using hbusy (by simpa using hb)
    specialize hro rfl
    rcases hr : regionOf s.params addr with r | k | ⟨q, j⟩ | ⟨x, i⟩ | _ <;> rw [hr] at hsize hro hmap
    · simp [Region.sizeOk, Access.size] at hsize
    · simp [Region.readOnly] at hro
    · simp [Region.readOnly] at hro
    · obtain ⟨hi, -, -⟩ := regionOf_window ha hr
      refine ⟨_, by simp only [hostStep, if_neg hna, he, hr]; rfl, .byte he hb x i ?_ hr hi v rfl⟩
      rintro rfl
      simp [Region.readOnly] at hro
    · exact absurd rfl hmap
  | write4 v =>
    have hb : s.busy = false := by
      by_contra hb
      simpa [Access.isWrite] using hbusy (by simpa using hb)
    specialize hro rfl
    rcases hr : regionOf s.params addr with r | k | ⟨q, j⟩ | ⟨x, i⟩ | _ <;> rw [hr] at hsize hro hmap
    · cases r <;> first
        | (exfalso; simp [Region.readOnly] at hro; done)
        | exact ⟨_, by simp only [hostStep, if_neg hna, he, hr]; rfl, .status he hb hr v rfl⟩
        | exact ⟨_, by simp only [hostStep, if_neg hna, he, hr]; rfl, .aW he hb hr v rfl⟩
        | exact ⟨_, by simp only [hostStep, if_neg hna, he, hr]; rfl, .aH he hb hr v rfl⟩
        | exact ⟨_, by simp only [hostStep, if_neg hna, he, hr]; rfl, .bW he hb hr v rfl⟩
        | exact ⟨_, by simp only [hostStep, if_neg hna, he, hr]; rfl, .bH he hb hr v rfl⟩
        | (obtain ⟨t, ht, hi⟩ := issueCommand_next v (s := s.respond (.okay 0)) hb
           exact ⟨t, by simp only [hostStep, if_neg hna, he, hr]; exact ht, .issue he hb hr v rfl t hi⟩)
    · simp [Region.readOnly] at hro
    · simp [Region.readOnly] at hro
    · have hal : addr % 4 = 0 := by simpa [Region.sizeOk, Access.size] using hsize
      obtain ⟨-, hi, -⟩ := regionOf_window ha hr
      refine ⟨_, by simp only [hostStep, if_neg hna, he, hr]; rfl, .word he hb x i ?_ hr (hi hal) v rfl⟩
      rintro rfl
      simp [Region.readOnly] at hro
    · exact absurd rfl hmap

/-! ### The step -/

/-- The state with the next entry of the order taken off. -/
def State.pop (s : State) : State := { s with events := s.events.tail }

/-- Everything a step can do when it answers a next state. -/
inductive Stepped (s : State) : State → Prop where
  | host (a : Transaction) (rest : List Event) (he : s.events = .host a :: rest)
      (ha : a.addr < 4 * s.params.maxSamples) (t : State) (ht : Transacted a s.pop t) : Stepped s t
  | complete (hb : s.busy = true) (he : s.events = [] ∨ ∃ rest, s.events = .engine :: rest) (i : Instr)
      (hd : decode s.cmd = .instr i) (t : State) (ht : Completed i s.pop t) : Stepped s t
  | idle (hb : s.busy = false) (he : s.events = [] ∨ ∃ rest, s.events = .engine :: rest) : Stepped s s.pop
  | reset (rest : List Event) (he : s.events = .reset :: rest) : Stepped s s.pop.takeReset

theorem engineStep_next {s t : State} (h : engineStep s = .next t) :
    (s.busy = true ∧ ∃ i, decode s.cmd = .instr i ∧ Completed i s t) ∨ (s.busy = false ∧ t = s) := by
  unfold engineStep at h
  split_ifs at h with hb
  · rcases hd : decode s.cmd with i | why
    · rw [hd] at h
      exact .inl ⟨hb, i, rfl, exec_busy_next hb h⟩
    · rw [hd] at h
      cases h
  · cases h
    exact .inr ⟨by simpa using hb, rfl⟩

theorem step_next {s t : State} (h : step s = .next t) : Stepped s t := by
  unfold step at h
  rcases he : s.events with _ | ⟨e, rest⟩
  · simp only [he] at h
    have hp : s.pop = s := by rw [State.pop, he, List.tail_nil, ← he]
    rcases engineStep_next h with ⟨hb, i, hd, hc⟩ | ⟨hb, ht⟩
    · exact .complete hb (.inl he) i hd t (by rwa [hp])
    · have := Stepped.idle hb (.inl he)
      rw [hp] at this
      rwa [ht]
  · have hp : { s with events := rest } = s.pop := by simp [State.pop, he]
    cases e with
    | host a =>
      simp only [he, hp] at h
      by_cases ha : a.addr < 4 * s.params.maxSamples
      · obtain ⟨u, hu, hc⟩ := hostStep_next (a := a) (s := s.pop) ha
        rw [hu] at h
        cases h
        exact .host a rest he ha _ hc
      · have ha' : 4 * s.pop.params.maxSamples ≤ a.addr := by simpa [State.pop] using ha
        simp [hostStep, ha'] at h
    | engine =>
      simp only [he, hp] at h
      rcases engineStep_next h with ⟨hb, i, hd, hc⟩ | ⟨hb, ht⟩
      · exact Stepped.complete (s := s) hb (.inr ⟨rest, he⟩) i hd t hc
      · rw [ht]
        exact Stepped.idle (s := s) hb (.inr ⟨rest, he⟩)
    | reset =>
      simp only [he, hp] at h
      cases h
      exact .reset rest he

/-! ### Runs -/

theorem run_zero (s : State) : Host.Core.run core 0 s = .next s := rfl

/-- A run whose first step answers a next state goes on from there. -/
theorem run_succ {s t : State} (n : Nat) (h : step s = .next t) :
    Host.Core.run core (n + 1) s = Host.Core.run core n t := by
  have h' : core.step s = .next t := h
  simp only [Host.Core.run, h']

end Sys2Proof.Machine
end

