-- ==== Sys2Proof/Laws/Bus.lean ====
section
/-! SUPPORT. The address map and the ERROR cases in terms of the offset (20_memory.md R61, R63, R64, R70): which
offsets are pollable, unmapped, windows, read-only, and which case a transaction meets first. -/

namespace Sys2Proof.Machine

/-! ### Classes of offsets -/

/-- The register at an offset below 0x30 (10_state.md R23). -/
theorem regionOf_register (p : Params) {addr : Nat} (h : addr < 0x30) :
    ∃ r, registers[addr / 4]? = some r ∧ regionOf p addr = .register r := by
  have hl : addr / 4 < registers.length := by simp only [registers, List.length_cons, List.length_nil]; omega
  exact ⟨registers[addr / 4], List.getElem?_eq_getElem hl, by simp [regionOf, h, List.getElem?_eq_getElem hl]⟩

theorem registers_pollable : ∀ j < 12, ∀ r, registers[j]? = some r →
    ((Region.register r).pollable = true ↔ j < 4) ∧ ((Region.register r).readOnly = true ↔ j < 2 ∨ 8 ≤ j) := by
  decide

theorem regionOf_pollable (p : Params) (addr : Nat) : (regionOf p addr).pollable = true ↔ addr < 0x10 := by
  by_cases h : addr < 0x30
  · obtain ⟨r, hr, he⟩ := regionOf_register p h
    rw [he, (registers_pollable (addr / 4) (by omega) r hr).1]
    omega
  · unfold regionOf
    rw [if_neg h]
    split_ifs <;> simp [Region.pollable] <;> omega

theorem regionOf_unmapped (p : Params) (addr : Nat) :
    regionOf p addr = .unmapped ↔ (0x30 ≤ addr ∧ addr < 0x400) ∨ (0xA00 ≤ addr ∧ addr < p.maxSamples) := by
  have := p.maxSamples_ge
  by_cases h : addr < 0x30
  · obtain ⟨r, -, he⟩ := regionOf_register p h
    simp only [he, reduceCtorEq, false_iff]
    omega
  · unfold regionOf
    rw [if_neg h]
    split_ifs <;> simp <;> omega

theorem regionOf_is_window (p : Params) (addr : Nat) :
    (∃ x i, regionOf p addr = .window x i) ↔ p.maxSamples ≤ addr := by
  have := p.maxSamples_ge
  by_cases h : addr < 0x30
  · obtain ⟨r, -, he⟩ := regionOf_register p h
    simp [he]
    omega
  · unfold regionOf
    rw [if_neg h]
    split_ifs <;> simp <;> omega

theorem Access.size_cases (a : Access) : a.size = 1 ∨ a.size = 4 := by cases a <;> simp [Access.size]

theorem regionOf_sizeOk (p : Params) {addr size : Nat} (hm : regionOf p addr ≠ .unmapped) (hs : size = 1 ∨ size = 4) :
    (regionOf p addr).sizeOk addr size = false ↔
      (addr < p.maxSamples ∧ size ≠ 4) ∨ (size = 4 ∧ addr % 4 ≠ 0) := by
  have := regionOf_is_window p addr
  rcases h : regionOf p addr with r | k | ⟨q, j⟩ | ⟨x, i⟩ | _ <;> simp [h, Region.sizeOk] at this hm ⊢ <;> omega

theorem regionOf_readOnly (p : Params) {addr : Nat} (hm : regionOf p addr ≠ .unmapped) :
    (regionOf p addr).readOnly = true ↔
      addr < 0x08 ∨ (0x20 ≤ addr ∧ addr < p.maxSamples) ∨ 3 * p.maxSamples ≤ addr := by
  have := p.maxSamples_ge
  rw [ne_eq, regionOf_unmapped] at hm
  by_cases h : addr < 0x30
  · obtain ⟨r, hr, he⟩ := regionOf_register p h
    rw [he, (registers_pollable (addr / 4) (by omega) r hr).2]
    omega
  · unfold regionOf
    rw [if_neg h]
    split_ifs <;> simp [Region.readOnly] <;> omega

/-! ### The ERROR cases -/

/-- The busy gate (R70) in terms of the offset. -/
theorem State.busError_busy (s : State) (a : Transaction) :
    s.busError a = some .busy ↔ s.busy = true ∧ ¬ (a.access.isWrite = false ∧ a.addr < 0x10) := by
  rw [← regionOf_pollable s.params a.addr]
  cases hb : s.busy <;> cases hw : a.access.isWrite <;> cases hp : (regionOf s.params a.addr).pollable <;>
    simp [State.busError, hb, hw, hp] <;> split_ifs <;> simp

/-- A transaction not stopped by the gate, at a mapped offset of an allowed size and alignment, no write of a read-only
location, is answered OKAY. -/
theorem State.busError_eq_none {s : State} {a : Transaction}
    (hb : s.busy = true → a.access.isWrite = false ∧ a.addr < 0x10)
    (hm : ¬ ((0x30 ≤ a.addr ∧ a.addr < 0x400) ∨ (0xA00 ≤ a.addr ∧ a.addr < s.params.maxSamples)))
    (hs : ¬ ((a.addr < s.params.maxSamples ∧ a.access.size ≠ 4) ∨ (a.access.size = 4 ∧ a.addr % 4 ≠ 0)))
    (hw : a.access.isWrite = true →
      ¬ (a.addr < 0x08 ∨ (0x20 ≤ a.addr ∧ a.addr < s.params.maxSamples) ∨ 3 * s.params.maxSamples ≤ a.addr)) :
    s.busError a = none := by
  rw [← regionOf_unmapped] at hm
  rw [← regionOf_sizeOk s.params hm a.access.size_cases] at hs
  rw [← regionOf_readOnly s.params hm] at hw
  rw [← regionOf_pollable s.params a.addr] at hb
  simp only [State.busError]
  split_ifs <;> simp_all

/-! ### What a transaction answers -/

/-- A transaction that meets a case of R64. -/
theorem hostStep_error {s : State} {a : Transaction} (ha : a.addr < 4 * s.params.maxSamples) {e : BusError}
    (he : s.busError a = some e) : hostStep a s = .next (s.respond (.err e)) := by
  simp only [hostStep, if_neg (Nat.not_le.mpr ha), he]

/-- A word read that meets none. -/
theorem hostStep_read4 {s : State} {addr : Nat} (ha : addr < 4 * s.params.maxSamples)
    (he : s.busError ⟨addr, .read4⟩ = none) :
    hostStep ⟨addr, .read4⟩ s = .next (s.respond (.okay (s.readWord (regionOf s.params addr)))) := by
  simp only [hostStep, if_neg (Nat.not_le.mpr ha), he]

/-- A byte read that meets none. -/
theorem hostStep_read1 {s : State} {addr : Nat} (ha : addr < 4 * s.params.maxSamples)
    (he : s.busError ⟨addr, .read1⟩ = none) :
    hostStep ⟨addr, .read1⟩ s = .next (s.respond (.okay (s.readByte (regionOf s.params addr)))) := by
  simp only [hostStep, if_neg (Nat.not_le.mpr ha), he]

/-- A word written to a location other than `CMD`, when the transaction meets no case of R64. -/
theorem hostStep_write4 {s : State} {addr : Nat} {v : Word} (ha : addr < 4 * s.params.maxSamples)
    (he : s.busError ⟨addr, .write4 v⟩ = none) (hc : regionOf s.params addr ≠ .register .cmd) :
    hostStep ⟨addr, .write4 v⟩ s = .next ((s.writeWord v (regionOf s.params addr)).respond (.okay 0)) := by
  simp only [hostStep, if_neg (Nat.not_le.mpr ha), he]

/-- A byte written, when the transaction meets no case of R64. -/
theorem hostStep_write1 {s : State} {addr : Nat} {v : BitVec 8} (ha : addr < 4 * s.params.maxSamples)
    (he : s.busError ⟨addr, .write1 v⟩ = none) :
    hostStep ⟨addr, .write1 v⟩ s = .next ((s.writeByte v (regionOf s.params addr)).respond (.okay 0)) := by
  simp only [hostStep, if_neg (Nat.not_le.mpr ha), he]

/-- The offset `x + i` of a window (R61). -/
theorem regionOf_windowOffset (p : Params) (x : MemId) {i : Nat} (hi : i < p.maxSamples) :
    regionOf p (windowRank x * p.maxSamples + i) = .window x i := by
  have := p.maxSamples_ge
  cases x <;> simp only [windowRank] <;> unfold regionOf <;> split_ifs <;>
    first | omega | (simp only [Region.window.injEq, true_and]; omega)

end Sys2Proof.Machine
end

