-- ==== Sys2Proof/WellFormed.lean ====
section
/-! DEFINITION. When a command is well formed. "Every 8-bit value is a legal threshold" (30_encoding.md R93) and no
other command has an operand, so every term of `Instr` is well formed by its type (log 19). The checks that can fail
are on WORDS: a word is well formed when it has none of the faults R98 names. The checks on the parameters (R6, R7,
R133) are in Machine/Params.lean, where a repair can mend them. -/

namespace Sys2Proof

/-- Well-formedness of a command: no operand of any command has an illegal value (R93, R94). -/
def Instr.wf : Instr → Bool
  | .hist => true
  | .bin t => decide (t.toNat < 256)
  | .convAvg => true
  | .convGauss => true
  | .convLap => true
  | .convPrwx => true
  | .convPrwy => true
  | .edgePrw => true
  | .convSblx => true
  | .convSbly => true
  | .edgeSbl => true
  | .convHpf => true
  | .max => true

/-- R98, first case: no reserved bit is 1. -/
def wordRsvClear (w : Word) : Bool := rsv w == 0

/-- R98, second case: only `BIN` has an immediate. -/
def wordImmAllowed (w : Word) : Bool := opc w == 0x05 || imm8 w == 0

/-- R99: the reserved opcodes, 0x00 to 0x02, 0x04, 0x06, 0x07 and 0x13 to 0xFF. -/
def reservedOpcode (op : BitVec 8) : Bool :=
  op == 0x00 || op == 0x01 || op == 0x02 || op == 0x04 || op == 0x06 || op == 0x07 || decide (0x13 ≤ op.toNat)

/-- A word is well formed when no case of R98 applies. -/
def wordWf (w : Word) : Bool := wordRsvClear w && wordImmAllowed w && !reservedOpcode (opc w)

end Sys2Proof
end

