-- ==== Sys2Proof/Laws/Decode.lean ====
section
/-! SUPPORT. The fields of a command word (30_encoding.md R91): as numbers, of a word put together from fields, and that
they determine the word. -/

namespace Sys2Proof

theorem opc_toNat (w : Word) : (opc w).toNat = w.toNat % 256 := by
  simp [opc, BitVec.extractLsb'_toNat]

theorem imm8_toNat (w : Word) : (imm8 w).toNat = w.toNat / 256 % 256 := by
  simp [imm8, BitVec.extractLsb'_toNat, Nat.shiftRight_eq_div_pow]

theorem rsv_toNat (w : Word) : (rsv w).toNat = w.toNat / 65536 % 65536 := by
  simp [rsv, BitVec.extractLsb'_toNat, Nat.shiftRight_eq_div_pow]

theorem cmd32_toNat (r : BitVec 16) (imm op : BitVec 8) :
    (cmd32 r imm op).toNat = r.toNat * 65536 + imm.toNat * 256 + op.toNat := by
  have h1 := imm.isLt
  have h2 := op.isLt
  simp only [cmd32, BitVec.toNat_append]
  rw [← Nat.shiftLeft_add_eq_or_of_lt h1, ← Nat.shiftLeft_add_eq_or_of_lt h2]
  simp only [Nat.shiftLeft_eq]
  omega

/-- The three fields determine the word. -/
theorem word_eq_of_fields {w v : Word} (h1 : opc w = opc v) (h2 : imm8 w = imm8 v) (h3 : rsv w = rsv v) : w = v := by
  have a := congrArg BitVec.toNat h1
  have b := congrArg BitVec.toNat h2
  have c := congrArg BitVec.toNat h3
  rw [opc_toNat, opc_toNat] at a
  rw [imm8_toNat, imm8_toNat] at b
  rw [rsv_toNat, rsv_toNat] at c
  have hw := w.isLt
  have hv := v.isLt
  exact BitVec.eq_of_toNat_eq (by omega)

@[simp] theorem opc_cmd32 (r : BitVec 16) (imm op : BitVec 8) : opc (cmd32 r imm op) = op := by
  refine BitVec.eq_of_toNat_eq ?_
  have := op.isLt
  rw [opc_toNat, cmd32_toNat]
  omega

@[simp] theorem imm8_cmd32 (r : BitVec 16) (imm op : BitVec 8) : imm8 (cmd32 r imm op) = imm := by
  refine BitVec.eq_of_toNat_eq ?_
  have := op.isLt
  have := imm.isLt
  rw [imm8_toNat, cmd32_toNat]
  omega

@[simp] theorem rsv_cmd32 (r : BitVec 16) (imm op : BitVec 8) : rsv (cmd32 r imm op) = r := by
  refine BitVec.eq_of_toNat_eq ?_
  have := op.isLt
  have := imm.isLt
  have := r.isLt
  rw [rsv_toNat, cmd32_toNat]
  omega

/-- A word is the one put together from its fields. -/
theorem eq_cmd32 (w : Word) : w = cmd32 (rsv w) (imm8 w) (opc w) :=
  word_eq_of_fields (by simp) (by simp) (by simp)

/-- Among the commands without an immediate the opcode finds the command. -/
theorem find?_plainCommands {i : Instr} (op : BitVec 8) (h : plainCommands.find? (fun i => i.opcode == op) = some i) :
    i ∈ plainCommands ∧ i.opcode = op :=
  ⟨List.mem_of_find?_eq_some h, by simpa using List.find?_some h⟩

end Sys2Proof
end

