-- ==== Sys2Proof/Laws/PerInstr.lean ====
section
/-! SUPPORT. Per-command lemmas about the encoding of 30_encoding.md R91, R96, one per constructor. -/

/-- The encoded word has the command's opcode, its immediate, no reserved bit, and is well formed; a command other than
`BIN` has no immediate; the command itself is well formed. -/
def Sys2Proof.Laws.EncodeFields.Statement (i : Sys2Proof.Instr) : Prop :=
  Sys2Proof.opc (Sys2Proof.encode i) = i.opcode ∧ Sys2Proof.imm8 (Sys2Proof.encode i) = i.immediate
    ∧ Sys2Proof.rsv (Sys2Proof.encode i) = 0 ∧ Sys2Proof.wordWf (Sys2Proof.encode i) = true
    ∧ Sys2Proof.encode i &&& i.rowMask = i.rowMatch ∧ i.wf = true

namespace Sys2Proof.Laws.EncodeFields

open Sys2Proof

theorem hist : Statement .hist := by unfold Statement; decide
theorem bin (t : Sample) : Statement (.bin t) := by
  refine ⟨opc_cmd32 _ _ _, imm8_cmd32 _ _ _, rsv_cmd32 _ _ _, ?_, ?_, by simpa [Instr.wf] using t.isLt⟩
  · simp [wordWf, wordRsvClear, wordImmAllowed, encode, Instr.opcode, reservedOpcode]
  · refine word_eq_of_fields ?_ ?_ ?_ <;>
      simp only [encode, opc, imm8, rsv, BitVec.extractLsb'_and, Instr.rowMask] <;>
      simp only [← opc.eq_1, ← imm8.eq_1, ← rsv.eq_1, opc_cmd32, imm8_cmd32, rsv_cmd32] <;>
      simp [Instr.rowMatch, Instr.opcode, opc, imm8, rsv, Instr.immediate]
theorem convAvg : Statement .convAvg := by unfold Statement; decide
theorem convGauss : Statement .convGauss := by unfold Statement; decide
theorem convLap : Statement .convLap := by unfold Statement; decide
theorem convPrwx : Statement .convPrwx := by unfold Statement; decide
theorem convPrwy : Statement .convPrwy := by unfold Statement; decide
theorem edgePrw : Statement .edgePrw := by unfold Statement; decide
theorem convSblx : Statement .convSblx := by unfold Statement; decide
theorem convSbly : Statement .convSbly := by unfold Statement; decide
theorem edgeSbl : Statement .edgeSbl := by unfold Statement; decide
theorem convHpf : Statement .convHpf := by unfold Statement; decide
theorem max : Statement .max := by unfold Statement; decide

end Sys2Proof.Laws.EncodeFields
end

