-- ==== Sys2Proof/Laws/Program.lean ====
section
/-! SUPPORT. Laws of host programs: what a turn does, runs of programs put together, and that every run of a program is a
run of the machine on the events it performed (20_memory.md R73). -/

namespace Sys2Proof.Machine

/-! ### A step does not look past its own event -/

/-- The next state with other events scheduled. -/
def withEvents (ev : List Event) : Outcome → Outcome
  | .next t => .next { t with events := ev }
  | .fault r => .fault r
  | .refused r => .refused r

theorem exec_events (i : Instr) (s : State) (ev : List Event) :
    exec i { s with events := ev } = withEvents ev (exec i s) := by
  by_cases hb : s.busy = true
  · by_cases hi : i = .hist
    · subst hi
      rw [exec_busy_hist (s := s) hb, exec_busy_hist (s := { s with events := ev }) hb]
      by_cases hg : s.gridOk = true
      · have hs : State.gridSamples { s with events := ev } = s.gridSamples := rfl
        have hg' : State.gridOk { s with events := ev } = true := hg
        simp only [completeHist, hg, hg', hs, if_true]
        split <;> rfl
      · have hg' : ¬ State.gridOk { s with events := ev } = true := hg
        simp only [completeHist, if_neg hg, if_neg hg']
        rfl
    · rw [exec_busy_grid hi (s := s) hb, exec_busy_grid hi (s := { s with events := ev }) hb]
      by_cases hg : s.gridOk = true
      · have hg' : State.gridOk { s with events := ev } = true := hg
        rw [completeGrid_ok hg, completeGrid_ok hg']
        cases i <;> rfl
      · have hg' : ¬ State.gridOk { s with events := ev } = true := hg
        simp only [completeGrid, if_neg hg, if_neg hg']
        rfl
  · have hb' : s.busy = false := by simpa using hb
    rw [exec_idle (s := s) hb', exec_idle (s := { s with events := ev }) hb']
    have hg : State.gridOk { s with events := ev } = s.gridOk := rfl
    have hm : State.gridsMatch { s with events := ev } = s.gridsMatch := rfl
    rw [hg, hm]
    by_cases h1 : s.gridOk = true
    · by_cases h2 : i = .max ∧ s.gridsMatch = false
      · rw [if_pos h1, if_pos h1, if_pos h2, if_pos h2]
        rfl
      · rw [if_pos h1, if_pos h1, if_neg h2, if_neg h2]
        by_cases h3 : i = .hist
        · rw [State.accept, State.accept, if_pos h3, if_pos h3]
          rfl
        · rw [State.accept, State.accept, if_neg h3, if_neg h3]
          rfl
    · rw [if_neg h1, if_neg h1]
      rfl

theorem engineStep_events (s : State) (ev : List Event) :
    engineStep { s with events := ev } = withEvents ev (engineStep s) := by
  unfold engineStep
  by_cases hb : s.busy = true
  · rw [if_pos hb, if_pos (show State.busy { s with events := ev } = true from hb)]
    show (match decode s.cmd with
      | .instr i => exec i { s with events := ev }
      | .illegal _ => .fault .inconsistentBusy) = _
    rcases decode s.cmd with i | why
    · exact exec_events i s ev
    · rfl
  · rw [if_neg hb, if_neg (show ¬ State.busy { s with events := ev } = true from hb)]
    rfl

theorem hostStep_events (a : Transaction) (s : State) (ev : List Event) :
    hostStep a { s with events := ev } = withEvents ev (hostStep a s) := by
  by_cases ha : 4 * s.params.maxSamples ≤ a.addr
  · simp only [hostStep, if_pos ha]
    rfl
  · have he : State.busError { s with events := ev } a = s.busError a := rfl
    simp only [hostStep, if_neg ha, he]
    rcases s.busError a with _ | e
    swap
    · rfl
    obtain ⟨addr, access⟩ := a
    cases access with
    | read1 =>
      rcases regionOf s.params addr with r | k | ⟨q, j⟩ | ⟨x, i⟩ | _ <;> rfl
    | read4 =>
      rcases regionOf s.params addr with r | k | ⟨q, j⟩ | ⟨x, i⟩ | _ <;> rfl
    | write1 v =>
      rcases regionOf s.params addr with r | k | ⟨q, j⟩ | ⟨x, i⟩ | _ <;> first | rfl | (cases x <;> rfl)
    | write4 v =>
      rcases regionOf s.params addr with r | k | ⟨q, j⟩ | ⟨x, i⟩ | _
      · cases r <;> first
          | rfl
          | (show issueCommand v _ = withEvents ev (issueCommand v _)
             unfold issueCommand
             rcases decode v with i | why
             · exact exec_events i ((s.respond (.okay 0)).latchCommand v) ev
             · rfl)
      · rfl
      · rfl
      · cases x <;> rfl
      · rfl

/-- What follows an event in the schedule stays scheduled. -/
theorem step_events (s : State) (e : Event) (rest : List Event) :
    step { s with events := e :: rest } = withEvents rest (step { s with events := [e] }) := by
  cases e with
  | host a => exact hostStep_events a { s with events := [] } rest
  | engine => exact engineStep_events { s with events := [] } rest
  | reset => rfl

/-! ### Turns -/

section

variable {α β : Type}

@[simp] theorem run_nil (p : HostProgram α) (s : State) : HostProgram.run [] p s = .next (p, s) := rfl

/-- A run whose first turn answers a next state goes on from there. -/
theorem run_cons {c : Turn} {p q : HostProgram α} {s t : State} (h : p.turn s c = .next (q, t)) (cs : List Turn) :
    HostProgram.run (c :: cs) p s = HostProgram.run cs q t := by
  simp only [HostProgram.run, h]

/-- A run in two parts. -/
theorem run_append {cs : List Turn} {p q : HostProgram α} {s t : State} (h : HostProgram.run cs p s = .next (q, t))
    (ds : List Turn) : HostProgram.run (cs ++ ds) p s = HostProgram.run ds q t := by
  induction cs generalizing p s with
  | nil =>
    cases h
    rfl
  | cons c cs ih =>
    simp only [HostProgram.run, List.cons_append] at h ⊢
    rcases ht : p.turn s c with ⟨u, v⟩ | r | r <;> simp only [ht] at h ⊢
    · exact ih h
    · cases h
    · cases h

theorem turn_engine {p : HostProgram α} {s t : State} (h : step { s with events := [.engine] } = .next t) :
    p.turn s .engine = .next (p, t) := by
  simp only [HostProgram.turn, h, resume]

theorem turn_perform {a : Transaction} {next : Response → HostProgram α} {s t : State}
    (h : step { s with events := [.host a] } = .next t) :
    (HostProgram.perform a next).turn s .host = .next (next t.newestResponse, t) := by
  simp only [HostProgram.turn, HostProgram.front, h, resume]

/-- `WAIT` reads `STATUS`: it goes on exactly when the data show `BUSY = 0`. -/
theorem turn_wait {next : HostProgram α} {s t : State} (h : step { s with events := [.host ⟨0x0C, .read4⟩] } = .next t) :
    (HostProgram.wait next).turn s .host
      = .next (if t.newestResponse.data.getLsbD 0 then .wait next else next, t) := by
  simp only [HostProgram.turn, HostProgram.front, h, resume]

/-- A word read answered OKAY: the program goes on by the word, and only the record of responses changes. -/
theorem turn_read4 {s : State} {addr : Nat} (ha : addr < 4 * s.params.maxSamples)
    (he : s.busError ⟨addr, .read4⟩ = none) (next : Response → HostProgram α) :
    (HostProgram.perform ⟨addr, .read4⟩ next).turn s .host
      = .next (next (.okay (s.readWord (regionOf s.params addr))),
          { s with events := [], responses := .okay (s.readWord (regionOf s.params addr)) :: s.responses }) :=
  turn_perform (hostStep_read4 (s := { s with events := [] }) ha he)

theorem bind_ret (a : α) (f : α → HostProgram β) : (HostProgram.ret a).bind f = f a := rfl

theorem bind_assoc {γ : Type} (p : HostProgram α) (f : α → HostProgram β) (g : β → HostProgram γ) :
    (p.bind f).bind g = p.bind (fun a => (f a).bind g) := by
  induction p with
  | ret a => rfl
  | perform t next ih => simp only [HostProgram.bind, ih]
  | wait next ih => simp only [HostProgram.bind, ih]

/-- A list of writes: one turn each, in order. -/
theorem run_performAll_cons {a : Transaction} {ts : List Transaction} {s t : State} {n : Nat} {r : Running Unit}
    (h : hostStep a { s with events := [] } = .next t)
    (h' : HostProgram.run (List.replicate n .host) (performAll ts) t = r) :
    HostProgram.run (List.replicate (n + 1) .host) (performAll (a :: ts)) s = r := by
  rw [List.replicate_succ, performAll, run_cons (turn_perform h)]
  exact h'

/-- A list of reads that are answered OKAY with the data `g`: the data in order go on to `f`, and only the record of
responses changes. -/
theorem run_readAll (s : State) (g : Transaction → Word) (ts : List Transaction)
    (h : ∀ a ∈ ts, ∀ rs, hostStep a { s with events := [], responses := rs }
      = .next { s with events := [], responses := ⟨none, g a⟩ :: rs }) (f : List Word → HostProgram α) (rs : List Response) :
    ∃ rs', HostProgram.run (List.replicate ts.length .host) ((readAll ts).bind f) { s with events := [], responses := rs }
      = .next (f (ts.map g), { s with events := [], responses := rs' }) := by
  induction ts generalizing f rs with
  | nil => exact ⟨rs, rfl⟩
  | cons a ts ih =>
    obtain ⟨rs', hr⟩ := ih (fun b hb => h b (List.mem_cons_of_mem _ hb)) (fun ds => f (g a :: ds)) (⟨none, g a⟩ :: rs)
    refine ⟨rs', ?_⟩
    rw [List.length_cons, List.replicate_succ, readAll, HostProgram.bind,
      run_cons (turn_perform (s := { s with events := [], responses := rs }) (h a List.mem_cons_self rs)), bind_assoc]
    exact hr

/-- The event of a turn, if the program performs one. -/
def turnEvent (p : HostProgram α) : Turn → List Event
  | .engine => [.engine]
  | .reset => [.reset]
  | .host => (p.front.map (fun f => Event.host f.1)).toList

/-- A turn is a run of the machine on the event of that turn. -/
theorem turn_is_run {p q : HostProgram α} {s t : State} {c : Turn} (h : p.turn s c = .next (q, t)) (ev : List Event) :
    ∀ n, Host.Core.run core ((turnEvent p c).length + n) { s with events := turnEvent p c ++ ev }
      = Host.Core.run core n { t with events := ev } := by
  intro n
  have go : ∀ (e : Event) (u : State), step { s with events := [e] } = .next u →
      Host.Core.run core (1 + n) { s with events := [e] ++ ev } = Host.Core.run core n { u with events := ev } := by
    intro e u hu
    have hs : step { s with events := [e] ++ ev } = .next { u with events := ev } := by
      have := step_events s e ev
      rwa [hu] at this
    rw [Nat.add_comm]
    exact run_succ n hs
  cases c with
  | engine =>
    simp only [HostProgram.turn] at h
    rcases hu : step { s with events := [.engine] } with u | r | r <;> simp only [hu, resume] at h <;> cases h
    exact go _ _ hu
  | reset =>
    simp only [HostProgram.turn] at h
    rcases hu : step { s with events := [.reset] } with u | r | r <;> simp only [hu, resume] at h <;> cases h
    exact go _ _ hu
  | host =>
    simp only [HostProgram.turn, turnEvent] at h ⊢
    rcases hf : p.front with _ | ⟨a, next⟩ <;> simp only [hf] at h ⊢
    · cases h
      simp
    · rcases hu : step { s with events := [.host a] } with u | r | r <;> simp only [hu, resume] at h <;> cases h
      exact go _ _ hu

/-- Every run of a program is a run of the machine on the events it performed. -/
theorem program_run_is_run {cs : List Turn} {p q : HostProgram α} {s t : State}
    (h : HostProgram.run cs p s = .next (q, t)) :
    ∃ es : List Event, es.length ≤ cs.length
      ∧ Host.Core.run core es.length { s with events := es } = .next { t with events := [] } := by
  induction cs generalizing p s with
  | nil =>
    cases h
    exact ⟨[], le_rfl, rfl⟩
  | cons c cs ih =>
    simp only [HostProgram.run] at h
    rcases ht : p.turn s c with ⟨u, v⟩ | r | r <;> simp only [ht] at h
    · obtain ⟨es, hl, hr⟩ := ih h
      refine ⟨turnEvent p c ++ es, ?_, ?_⟩
      · have : (turnEvent p c).length ≤ 1 := by
          cases c
          · rcases hf : p.front with _ | f <;> simp [turnEvent, hf]
          · exact le_rfl
          · exact le_rfl
        simp only [List.length_append, List.length_cons]
        omega
      · rw [List.length_append, turn_is_run ht es, hr]
    · cases h
    · cases h

end

end Sys2Proof.Machine
end

