-- ==== Sys2Proof/Laws/Stencil.lean ====
section
/-! SUPPORT. The laws of the stencil's arithmetic: the weighted sum written out, its bounds under the well-formedness of
the library, and that the post-processed value always fits a sample (42_convolution.md R136 to R138; 60_exceptions.md
R204). -/

namespace Sys2Proof.Machine

/-- The sum of R135 as nine products. -/
theorem stencilSum_eq (K : Kernel) (x : Nat → Sample) (w row col : Nat) :
    stencilSum K x w row col =
      ((neighbour x w row col 0 0).toNat : Int) * K.coef 0 0 + (neighbour x w row col 0 1).toNat * K.coef 0 1
      + (neighbour x w row col 0 2).toNat * K.coef 0 2 + (neighbour x w row col 1 0).toNat * K.coef 1 0
      + (neighbour x w row col 1 1).toNat * K.coef 1 1 + (neighbour x w row col 1 2).toNat * K.coef 1 2
      + (neighbour x w row col 2 0).toNat * K.coef 2 0 + (neighbour x w row col 2 1).toNat * K.coef 2 1
      + (neighbour x w row col 2 2).toNat * K.coef 2 2 := by
  simp only [stencilSum, List.map_cons, List.map_nil, List.sum_cons, List.sum_nil]
  ring

theorem mul_le_255 (x : Sample) (c : Int) : (x.toNat : Int) * c ≤ 255 * max c 0 := by
  have hx : (x.toNat : Int) ≤ 255 := by have := x.isLt; omega
  have h0 : (0 : Int) ≤ x.toNat := by omega
  calc (x.toNat : Int) * c ≤ x.toNat * max c 0 := mul_le_mul_of_nonneg_left (le_max_left _ _) h0
    _ ≤ 255 * max c 0 := mul_le_mul_of_nonneg_right hx (le_max_right _ _)

theorem neg_mul_le_255 (x : Sample) (c : Int) : -((x.toNat : Int) * c) ≤ 255 * max (-c) 0 := by
  have := mul_le_255 x (-c)
  linarith [mul_neg (x.toNat : Int) c]

/-- No sum exceeds 255 times the positive numerators. -/
theorem stencilSum_le (K : Kernel) (x : Nat → Sample) (w row col : Nat) :
    stencilSum K x w row col ≤ 255 * K.positiveSum := by
  rw [stencilSum_eq, Kernel.positiveSum, Kernel.numerators_eq]
  simp only [List.map_cons, List.map_nil, List.sum_cons, List.sum_nil]
  linarith [mul_le_255 (neighbour x w row col 0 0) (K.coef 0 0), mul_le_255 (neighbour x w row col 0 1) (K.coef 0 1),
    mul_le_255 (neighbour x w row col 0 2) (K.coef 0 2), mul_le_255 (neighbour x w row col 1 0) (K.coef 1 0),
    mul_le_255 (neighbour x w row col 1 1) (K.coef 1 1), mul_le_255 (neighbour x w row col 1 2) (K.coef 1 2),
    mul_le_255 (neighbour x w row col 2 0) (K.coef 2 0), mul_le_255 (neighbour x w row col 2 1) (K.coef 2 1),
    mul_le_255 (neighbour x w row col 2 2) (K.coef 2 2)]

/-- No sum falls below minus 255 times the negative numerators. -/
theorem neg_stencilSum_le (K : Kernel) (x : Nat → Sample) (w row col : Nat) :
    -stencilSum K x w row col ≤ 255 * K.negativeSum := by
  rw [stencilSum_eq, Kernel.negativeSum, Kernel.numerators_eq]
  simp only [List.map_cons, List.map_nil, List.sum_cons, List.sum_nil]
  linarith [neg_mul_le_255 (neighbour x w row col 0 0) (K.coef 0 0), neg_mul_le_255 (neighbour x w row col 0 1) (K.coef 0 1),
    neg_mul_le_255 (neighbour x w row col 0 2) (K.coef 0 2), neg_mul_le_255 (neighbour x w row col 1 0) (K.coef 1 0),
    neg_mul_le_255 (neighbour x w row col 1 1) (K.coef 1 1), neg_mul_le_255 (neighbour x w row col 1 2) (K.coef 1 2),
    neg_mul_le_255 (neighbour x w row col 2 0) (K.coef 2 0), neg_mul_le_255 (neighbour x w row col 2 1) (K.coef 2 1),
    neg_mul_le_255 (neighbour x w row col 2 2) (K.coef 2 2)]

theorem Kernel.direct_facts {K : Kernel} (h : K.wf = true) (hp : K.policy = .direct) :
    (∀ v ∈ K.numerators, 0 ≤ v) ∧ K.numerators.sum = K.den.toNat := by
  have := (Kernel.wf_facts h).2.2
  simpa [Kernel.policyWf, hp, List.all_eq_true] using this

theorem Kernel.scaled_facts {K : Kernel} (h : K.wf = true) (hp : K.policy = .scaledMagnitude) :
    K.positiveSum ≤ K.den.toNat * K.scale.toNat ∧ K.negativeSum ≤ K.den.toNat * K.scale.toNat := by
  have := (Kernel.wf_facts h).2.2
  simpa [Kernel.policyWf, hp] using this

/-- A direct kernel's sum lies in 0 to 255*DEN (R136). -/
theorem stencilSum_direct {K : Kernel} (h : K.wf = true) (hp : K.policy = .direct) (x : Nat → Sample)
    (w row col : Nat) :
    0 ≤ stencilSum K x w row col ∧ stencilSum K x w row col ≤ 255 * (K.den.toNat : Int) := by
  obtain ⟨hn, hs⟩ := Kernel.direct_facts h hp
  have e1 : K.numerators.map (fun v => max v 0) = K.numerators :=
    (List.map_congr_left fun v hv => max_eq_left (hn v hv)).trans (List.map_id _)
  have e2 : K.numerators.map (fun v => max (-v) 0) = K.numerators.map (fun _ => 0) :=
    List.map_congr_left fun v hv => max_eq_right (by have := hn v hv; omega)
  have p1 : K.positiveSum = K.den.toNat := by rw [Kernel.positiveSum, e1, hs]
  have p2 : K.negativeSum = 0 := by rw [Kernel.negativeSum, e2]; simp
  have a := stencilSum_le K x w row col
  have b := neg_stencilSum_le K x w row col
  rw [p1] at a; rw [p2] at b
  constructor <;> linarith

theorem tdiv_of_nonneg {a : Int} (ha : 0 ≤ a) (b : Nat) : tdiv a b = a / b := Int.tdiv_eq_ediv_of_nonneg ha

theorem natAbs_tdiv (a : Int) (b : Nat) : (tdiv a b).natAbs = a.natAbs / b := by
  rw [tdiv, Int.natAbs_tdiv, Int.natAbs_natCast]
  rfl

/-- Every post-processed sum of a well-formed kernel lies in 0 to 255 (R136 to R138). -/
theorem postInt_range {K : Kernel} (h : K.wf = true) (x : Nat → Sample) (w row col : Nat) :
    0 ≤ postInt K (stencilSum K x w row col) ∧ postInt K (stencilSum K x w row col) ≤ 255 := by
  have hd : (1 : Int) ≤ K.den.toNat := by exact_mod_cast (Kernel.wf_facts h).1
  rcases hp : K.policy with _ | _ | _
  · obtain ⟨h0, h1⟩ := stencilSum_direct h hp x w row col
    simp only [postInt, hp, tdiv_of_nonneg h0]
    exact ⟨Int.ediv_nonneg h0 (by omega), Int.ediv_le_of_le_mul (by omega) (by linarith)⟩
  · obtain ⟨p1, p2⟩ := Kernel.scaled_facts h hp
    have a := stencilSum_le K x w row col
    have b := neg_stencilSum_le K x w row col
    simp only [postInt, hp, natAbs_tdiv]
    refine ⟨by positivity, ?_⟩
    rw [Nat.div_div_eq_div_mul]
    have key : (stencilSum K x w row col).natAbs ≤ 255 * (K.den.toNat * K.scale.toNat) := by
      zify
      rw [abs_le]
      constructor <;> nlinarith
    exact_mod_cast Nat.div_le_of_le_mul (by linarith)
  · simp only [postInt, hp]
    split_ifs with h0 h1
    · simp
    · simp
    · have h0' : 0 ≤ stencilSum K x w row col := by omega
      rw [tdiv_of_nonneg h0']
      exact ⟨Int.ediv_nonneg h0' (by omega), Int.ediv_le_of_le_mul (by omega) (by linarith)⟩

/-- The stored sample IS the post-processed value: nothing is cut off (R204). -/
theorem post_toNat {K : Kernel} (h : K.wf = true) (x : Nat → Sample) (w row col : Nat) :
    ((post K (stencilSum K x w row col)).toNat : Int) = postInt K (stencilSum K x w row col) := by
  obtain ⟨h0, h1⟩ := postInt_range h x w row col
  rw [post, BitVec.toNat_ofInt]
  omega

end Sys2Proof.Machine
end

