-- ==== Sys2Proof/Tests/Slice0.lean ====
section
/-! SUPPORT. Tests: the well-formedness smoke, words written out bit by bit from the spec's encodings, one step per
command on the spec's own vectors (95_test_vectors.md), and for every statement with hypotheses a concrete state that
meets them. Expected values are the spec's, never the model's output. -/

namespace Sys2Proof.Tests

set_option Elab.async false

open Sys2Proof Sys2Proof.Machine Sys2Proof.Statement

/-! ### Small states -/

/-- A sample memory that holds the samples at indices 0, 1, … -/
def mem (samples : List Nat) : Memory := samples.zipIdx.map (fun c => (c.2, BitVec.ofNat 8 c.1))

/-- An idle block with grid A loaded and its bins built by no one but known. -/
def idle (w h : Nat) (a : List Nat) : State :=
  { State.reset with aW := BitVec.ofNat 16 w, aH := BitVec.ofNat 16 h, memA := mem a, bins := clearBins }

/-- The same block with the command `i` accepted. -/
def busy (i : Instr) (w h : Nat) (a : List Nat) : State := { idle w h a with busy := true, cmd := encode i }

/-- With grid B as well. -/
def withB (s : State) (w h : Nat) (b : List Nat) : State :=
  { s with bW := BitVec.ofNat 16 w, bH := BitVec.ofNat 16 h, memB := mem b }

/-- The output grid a step leaves. -/
def outGrid : Outcome → Option (List Nat)
  | .next t => some ((List.range (t.oW.toNat * t.oH.toNat)).map (fun i => (t.sample .O i).toNat))
  | _ => none

/-- The data and the error of the newest response a step leaves. -/
def answer : Outcome → Option (Option BusError × Nat)
  | .next t => t.responses.head?.map (fun r => (r.error, r.data.toNat))
  | _ => none

/-- A field of the next state. -/
def field {α : Type} (f : State → α) : Outcome → Option α
  | .next t => some (f t)
  | _ => none

/-- One host transaction. -/
def perform (s : State) (e : Event) : Outcome := step { s with events := [e] }

/-- Test image `T1` of 42_convolution.md. -/
def imageT1 : List Nat :=
  [10, 10, 10, 200, 200] ++ [10, 10, 10, 200, 200] ++ [10, 10, 10, 200, 200] ++ [10, 10, 10, 200, 200]
    ++ [10, 10, 10, 200, 200]

/-- Test image `T3` of V43. -/
def imageT3 : List Nat :=
  [12, 200, 7, 90, 255] ++ [0, 34, 180, 66, 21] ++ [99, 150, 3, 240, 77] ++ [58, 11, 203, 45, 128]

/-- A 5 by 5 output with three equal interior rows. -/
def ring5 (a b c : Nat) : List Nat :=
  [0, 0, 0, 0, 0] ++ [0, a, b, c, 0] ++ [0, a, b, c, 0] ++ [0, a, b, c, 0] ++ [0, 0, 0, 0, 0]

/-- A 5 wide, 4 high output with the six interior samples. -/
def ring54 (a b c d e f : Nat) : List Nat :=
  [0, 0, 0, 0, 0] ++ [0, a, b, c, 0] ++ [0, d, e, f, 0] ++ [0, 0, 0, 0, 0]

/-! ### Well-formedness (30_encoding.md R98; 00_scope.md R6, R7; 42_convolution.md R133) -/

theorem test_wordWf_refuses_reserved_bit : wordWf 0x00010005 = false ∧ wordRsvClear 0x00010005 = false := by decide

theorem test_wordWf_refuses_immediate : wordWf 0x00000103 = false ∧ wordImmAllowed 0x00000103 = false := by decide

theorem test_wordWf_refuses_reserved_opcode :
    wordWf 0x00000000 = false ∧ wordWf 0x00000004 = false ∧ wordWf 0x00000007 = false ∧ wordWf 0x00000013 = false
      ∧ wordWf 0x000000FF = false := by decide

theorem test_wordWf_accepts_commands : wordWf 0x00000003 = true ∧ wordWf 0x0000FF05 = true ∧ wordWf 0x00000012 = true := by
  decide

theorem test_params_refuse_addrW :
    ({ Params.default.values with addrW := 11 } : ParamValues).wf = false
      ∧ ({ Params.default.values with addrW := 31 } : ParamValues).wf = false := by decide +kernel

theorem test_params_refuse_dimW :
    ({ Params.default.values with dimW := 0 } : ParamValues).wf = false
      ∧ ({ Params.default.values with dimW := 17 } : ParamValues).wf = false := by decide +kernel

theorem test_params_refuse_cntW :
    ({ Params.default.values with cntW := 20 } : ParamValues).wf = false
      ∧ ({ Params.default.values with cntW := 33 } : ParamValues).wf = false := by decide +kernel

theorem test_kernel_refuses_direct_sum : ({ kernelAverage with den := 8 } : Kernel).wf = false := by decide

theorem test_kernel_refuses_direct_negative :
    Kernel.wf ⟨#v[-1, 2, 0, 0, 0, 0, 0, 0, 0], 1, .direct, 1⟩ = false := by decide

theorem test_kernel_refuses_scaled_bound : ({ kernelSobelX with scale := 3 } : Kernel).wf = false := by decide

theorem test_kernel_refuses_zero_den : ({ kernelLaplacianHpf with den := 0 } : Kernel).wf = false := by decide

theorem test_kernel_refuses_zero_scale : ({ kernelLaplacianHpf with scale := 0 } : Kernel).wf = false := by decide

theorem test_params_refuse_policy :
    ({ Params.default.values with klib := defaultKlib.set 2 { kernelLaplacian with policy := .clamped } } :
      ParamValues).wf = false := by decide +kernel

theorem test_params_refuse_scale :
    ({ Params.default.values with klib := defaultKlib.set 4 { kernelPrewittX with scale := 4 } } : ParamValues).wf
      = false := by decide +kernel

/-! ### Decoding: words bit by bit from R91 and R96 (`RSV` 16 bits, `IMM8` 8 bits, `OPC` 8 bits) -/

theorem test_decode_hist : decode 0b00000000000000000000000000000011 = .instr .hist := by decide

theorem test_decode_bin : decode 0b00000000000000000110010000000101 = .instr (.bin 100) := by decide

theorem test_decode_bin_ends : decode 0x00000005 = .instr (.bin 0) ∧ decode 0x0000FF05 = .instr (.bin 255) := by decide

theorem test_decode_convAvg : decode 0b00000000000000000000000000001000 = .instr .convAvg := by decide

theorem test_decode_convGauss : decode 0b00000000000000000000000000001001 = .instr .convGauss := by decide

theorem test_decode_convLap : decode 0b00000000000000000000000000001010 = .instr .convLap := by decide

theorem test_decode_convPrwx : decode 0b00000000000000000000000000001011 = .instr .convPrwx := by decide

theorem test_decode_convPrwy : decode 0b00000000000000000000000000001100 = .instr .convPrwy := by decide

theorem test_decode_edgePrw : decode 0b00000000000000000000000000001101 = .instr .edgePrw := by decide

theorem test_decode_convSblx : decode 0b00000000000000000000000000001110 = .instr .convSblx := by decide

theorem test_decode_convSbly : decode 0b00000000000000000000000000001111 = .instr .convSbly := by decide

theorem test_decode_edgeSbl : decode 0b00000000000000000000000000010000 = .instr .edgeSbl := by decide

theorem test_decode_convHpf : decode 0b00000000000000000000000000010001 = .instr .convHpf := by decide

theorem test_decode_max : decode 0b00000000000000000000000000010010 = .instr .max := by decide

/-- V40a, V40b, V40i. -/
theorem test_decode_illegal_fields :
    decode 0x00010005 = .illegal .reservedBits ∧ decode 0x00000103 = .illegal .immediate
      ∧ decode 0x80000008 = .illegal .reservedBits := by decide

/-- V40c to V40g, and the other reserved codes of R99. -/
theorem test_decode_reserved_opcodes :
    decode 0x00 = .illegal (.reservedOpcode 0x00) ∧ decode 0x01 = .illegal (.reservedOpcode 0x01)
      ∧ decode 0x02 = .illegal (.reservedOpcode 0x02) ∧ decode 0x04 = .illegal (.reservedOpcode 0x04)
      ∧ decode 0x06 = .illegal (.reservedOpcode 0x06) ∧ decode 0x07 = .illegal (.reservedOpcode 0x07)
      ∧ decode 0x13 = .illegal (.reservedOpcode 0x13) ∧ decode 0xFF = .illegal (.reservedOpcode 0xFF) := by decide

/-- Example of R101: `BIN #100` is the word 0x00006405. -/
theorem test_encode_bin : encode (.bin 100) = 0x00006405 := by decide

theorem test_decodeTableWord : decodeTableWord 32 0x6405 = some (.bin 100) ∧ decodeTableWord 32 0x13 = none := by decide

/-! ### HIST (V42) -/

theorem test_hist_T1 :
    field (fun t => (t.statusWord, t.low, t.high, t.bin 10, t.bin 200, t.bin 11)) (exec .hist (busy .hist 5 5 imageT1))
      = some (0x006, 10, 200, 15, 10, 0) := by decide +kernel

/-! ### BIN (V50, V54) -/

theorem test_bin_strict : outGrid (exec (.bin 100) (busy (.bin 100) 1 3 [99, 100, 101])) = some [0, 255, 255] := by
  decide +kernel

theorem test_bin_T3 :
    outGrid (exec (.bin 128) (busy (.bin 128) 5 4 imageT3)) =
      some ([0, 255, 0, 0, 255] ++ [0, 0, 255, 0, 0] ++ [0, 255, 0, 255, 0] ++ [0, 0, 255, 0, 255]) := by decide +kernel

/-! ### Stencils (V60, V61) -/

theorem test_convAvg_T1 : outGrid (exec .convAvg (busy .convAvg 5 5 imageT1)) = some (ring5 10 73 136) := by
  decide +kernel

theorem test_convAvg_T3 :
    outGrid (exec .convAvg (busy .convAvg 5 4 imageT3)) = some (ring54 76 107 104 82 103 107) := by decide +kernel

theorem test_convGauss_T1 : outGrid (exec .convGauss (busy .convGauss 5 5 imageT1)) = some (ring5 10 57 152) := by
  decide +kernel

theorem test_convGauss_T3 :
    outGrid (exec .convGauss (busy .convGauss 5 4 imageT3)) = some (ring54 82 101 104 83 107 117) := by decide +kernel

theorem test_convLap_T1 : outGrid (exec .convLap (busy .convLap 5 5 imageT1)) = some (ring5 0 71 71) := by
  decide +kernel

theorem test_convLap_T3 :
    outGrid (exec .convLap (busy .convLap 5 4 imageT3)) = some (ring54 47 81 43 76 113 149) := by decide +kernel

theorem test_convHpf_T1 : outGrid (exec .convHpf (busy .convHpf 5 5 imageT1)) = some (ring5 10 0 255) := by
  decide +kernel

theorem test_convHpf_T3 :
    outGrid (exec .convHpf (busy .convHpf 5 4 imageT3)) = some (ring54 0 255 0 255 0 255) := by decide +kernel

theorem test_convPrwx_T1 : outGrid (exec .convPrwx (busy .convPrwx 5 5 imageT1)) = some (ring5 0 190 190) := by
  decide +kernel

theorem test_convPrwx_T3 :
    outGrid (exec .convPrwx (busy .convPrwx 5 4 imageT3)) = some (ring54 26 4 54 76 52 53) := by decide +kernel

theorem test_convPrwy_T1 : outGrid (exec .convPrwy (busy .convPrwy 5 5 imageT1)) = some (ring5 0 0 0) := by
  decide +kernel

theorem test_convPrwy_T3 :
    outGrid (exec .convPrwy (busy .convPrwy 5 4 imageT3)) = some (ring54 11 32 10 19 7 36) := by decide +kernel

theorem test_convSblx_T1 : outGrid (exec .convSblx (busy .convSblx 5 5 imageT1)) = some (ring5 0 190 190) := by
  decide +kernel

theorem test_convSblx_T3 :
    outGrid (exec .convSblx (busy .convSblx 5 4 imageT3)) = some (ring54 64 11 1 33 61 21) := by decide +kernel

theorem test_convSbly_T1 : outGrid (exec .convSbly (busy .convSbly 5 5 imageT1)) = some (ring5 0 0 0) := by
  decide +kernel

theorem test_convSbly_T3 :
    outGrid (exec .convSbly (busy .convSbly 5 4 imageT3)) = some (ring54 4 23 29 8 0 22) := by decide +kernel

/-- R130, the kernel is not flipped: a kernel whose only weight is `N[0][0]` copies the upper-left neighbour. The
stencil sum of such a kernel at (1,1) is the sample at index 0. -/
theorem test_stencil_not_flipped :
    stencilSum ⟨#v[1, 0, 0, 0, 0, 0, 0, 0, 0], 1, .direct, 1⟩ (fun i => BitVec.ofNat 8 (i + 1)) 3 1 1 = 1 := by
  decide +kernel

/-- R9 and R137: `tdiv` truncates a negative sum toward zero. -/
theorem test_post_truncates : tdiv (-7) 2 = -3 ∧ postInt ⟨#v[0, 0, 0, 0, 0, 0, 0, 0, 0], 2, .scaledMagnitude, 2⟩ (-7) = 1 := by
  decide +kernel

/-! ### Combiner (V70, V77, V78, V79) -/

theorem test_max :
    outGrid (exec .max (withB (busy .max 2 2 [10, 200, 30, 0]) 2 2 [20, 100, 30, 255])) = some [20, 200, 30, 255] := by
  decide +kernel

/-- V72: equal products, different shapes. -/
theorem test_max_mismatch :
    field (fun t => (t.err, t.busy, t.done)) (exec .max (withB (idle 2 6 []) 3 4 [])) = some (.dimMismatch, false, true) := by
  decide +kernel

theorem test_edgePrw_T3 :
    outGrid (exec .edgePrw (busy .edgePrw 5 4 imageT3)) = some (ring54 26 32 54 76 52 53) := by decide +kernel

theorem test_edgePrw_T1 : outGrid (exec .edgePrw (busy .edgePrw 5 5 imageT1)) = some (ring5 0 190 190) := by
  decide +kernel

theorem test_edgeSbl_T3 :
    outGrid (exec .edgeSbl (busy .edgeSbl 5 4 imageT3)) = some (ring54 64 23 29 33 61 22) := by decide +kernel

theorem test_edgeSbl_step :
    outGrid (exec .edgeSbl (busy .edgeSbl 3 3 [0, 0, 0, 0, 0, 0, 255, 255, 255])) = some [0, 0, 0, 0, 255, 0, 0, 0, 0] := by
  decide +kernel

/-! ### The host interface (V20 to V35) -/

theorem test_read_id : answer (perform State.reset (rd4 0x00)) = some (none, 0x48453031) := by decide +kernel

theorem test_read_cap : answer (perform State.reset (rd4 0x04)) = some (none, 0x00201014) := by decide +kernel

theorem test_read_little_endian :
    answer (perform (idle 4 1 [0x11, 0x22, 0x33, 0x44]) (rd4 0x100000)) = some (none, 0x44332211) := by decide +kernel

theorem test_write_little_endian :
    field (fun t => (t.sample .A 4, t.sample .A 7)) (perform State.reset (wr4 0x100004 0xAABBCCDD)) = some (0xDD, 0xAA) := by
  decide +kernel

/-- V25, V26: misaligned word, byte access to a register. -/
theorem test_size_errors :
    answer (perform State.reset (rd4 0x100002)) = some (some .sizeOrAlignment, 0)
      ∧ answer (perform State.reset (rd1 0x10)) = some (some .sizeOrAlignment, 0) := by decide +kernel

/-- V27, V28. -/
theorem test_read_only_errors :
    answer (perform State.reset (wr4 0x300000 0)) = some (some .readOnly, 0)
      ∧ answer (perform State.reset (wr4 0x28 5)) = some (some .readOnly, 0)
      ∧ answer (perform State.reset (wr4 0x400 1)) = some (some .readOnly, 0)
      ∧ answer (perform State.reset (wr4 0x800 1)) = some (some .readOnly, 0)
      ∧ answer (perform State.reset (wr4 0x00 0)) = some (some .readOnly, 0) := by decide +kernel

/-- V29. -/
theorem test_unmapped_errors :
    answer (perform State.reset (rd4 0x30)) = some (some .unmapped, 0)
      ∧ answer (perform State.reset (rd4 0x3FC)) = some (some .unmapped, 0)
      ∧ answer (perform State.reset (rd4 0xA00)) = some (some .unmapped, 0)
      ∧ answer (perform State.reset (rd4 0x0FFFFC)) = some (some .unmapped, 0) := by decide +kernel

/-- V30. -/
theorem test_dimension_reserved_bits :
    field (fun t => (t.aW, t.hvalid)) (perform { State.reset with hvalid := true } (wr4 0x10 0x00030005))
      = some (0x0005, false) := by decide +kernel

/-- V31, V32. -/
theorem test_klib_words :
    ((List.range 16).map (klibWord (Params.default.kernel 4)))
        = [0xFFFFFFFF, 0, 1, 0xFFFFFFFF, 0, 1, 0xFFFFFFFF, 0, 1, 1, 1, 3, 0, 0, 0, 0]
      ∧ answer (perform State.reset (rd4 0x9EC)) = some (none, 4) := by decide +kernel

/-- V33. -/
theorem test_busy_gate :
    answer (perform (busy .hist 1 1 [0]) (rd4 0x0C)) = some (none, 1)
      ∧ answer (perform (busy .hist 1 1 [0]) (rd4 0x10)) = some (some .busy, 0)
      ∧ field State.memA (perform (busy .hist 1 1 [0]) (wr1 0x100000 1)) = some (mem [0])
      ∧ field State.cmd (perform (busy (.bin 9) 1 1 [0]) (wr4 0x08 3)) = some 0x0905
      ∧ answer (perform (busy .hist 1 1 [0]) (wr4 0x0C 2)) = some (some .busy, 0) := by decide +kernel

/-- V34, V35. -/
theorem test_hvalid_writes :
    field State.hvalid (perform { State.reset with hvalid := true } (wr1 0x1FFFFF 0)) = some false
      ∧ field State.hvalid (perform { State.reset with hvalid := true } (wr1 0x200000 0)) = some true
      ∧ field State.hvalid (perform { State.reset with hvalid := true } (wr4 0x18 7)) = some true := by decide +kernel

/-! ### Errors and status (V80 to V87) -/

/-- V80, V81. -/
theorem test_status_after_errors :
    field (fun t => (t.statusWord, t.cmd)) (perform State.reset (wr4 0x08 0x00000003)) = some (0x00000202, 3)
      ∧ field State.statusWord (perform State.reset (wr4 0x08 0x00000000)) = some 0x00000102 := by decide +kernel

/-- V82. -/
theorem test_status_write_clears_done :
    field State.statusWord (perform { State.reset with done := true, err := .badDim } (wr4 0x0C 2)) = some 0x00000200 := by
  decide +kernel

/-- V83, V84. -/
theorem test_status_while_busy :
    field State.statusWord (perform { idle 1 1 [7] with done := true, err := .badDim } (wr4 0x08 0x03)) = some 0x00000001
      ∧ field State.statusWord (perform { idle 1 1 [7] with hvalid := true } (wr4 0x08 0x6405)) = some 0x00000005 := by
  decide +kernel

/-- V86, V87. -/
theorem test_bad_dim_boundary :
    field State.err (perform (idle 2048 1024 []) (wr4 0x08 0x03)) = some .badDim
      ∧ field State.busy (perform (idle 1024 1024 []) (wr4 0x08 0x03)) = some true := by decide +kernel

/-! ### Reset (10_state.md R42) -/

theorem test_reset_memory_canonical : ∀ x, (State.reset.mem x).wf := by intro x; cases x <;> exact List.Pairwise.nil

theorem test_reset_abandons_command :
    field (fun t => (t.busy, t.done, t.cmd, t.aW, t.memA.isEmpty)) (perform (busy .hist 1 1 [7]) .reset)
      = some (false, false, 0, 0, true) := by decide +kernel

/-! ### Host notation and reference functions (30_encoding.md R101, R102; V90 to V96, R171 to R173) -/

theorem test_notation :
    command4 (.bin 100) = wr4 0x08 0x00006405 ∧ histOffset 100 = 0x590 ∧ windowOffset Params.default .O 0 = 0x300000 := by
  decide +kernel

theorem test_point_transforms :
    inverse [100] = [155] ∧ brightness 50 [100, 230] = [150, 255] ∧ brightness (-50) [20] = [0]
      ∧ contrast 3 2 [100, 200] = some [150, 255] ∧ contrast 1 2 [101] = some [50] := by decide +kernel

theorem test_stretching : stretching 10 200 [10, 105, 200] = [0, 127, 255] ∧ stretching 100 100 [100] = [100] := by
  decide +kernel

/-- The histogram of `T1`. -/
def histT1 (k : Nat) : Nat := if k = 10 then 15 else if k = 200 then 10 else 0

theorem test_equalization : (equalizationLut histT1 25 10, equalizationLut histT1 25 200) = (153, 255) := by decide +kernel

theorem test_gonzalez :
    gonzalez histT1 10 200 = 105 ∧ gonzalez (fun k => imageT3.count k) 0 255 = 116
      ∧ gonzalez (fun k => if k = 100 then 16 else 0) 100 100 = 100 := by decide +kernel

/-- P3: the threshold of `T1` is 105, and five rows `0 0 0 255 255`. -/
theorem test_gonzalezBinarization :
    (gonzalezBinarization (imageT1.map (BitVec.ofNat 8))).map BitVec.toNat
      = [0, 0, 0, 255, 255] ++ [0, 0, 0, 255, 255] ++ [0, 0, 0, 255, 255] ++ [0, 0, 0, 255, 255]
        ++ [0, 0, 0, 255, 255] := by decide +kernel

/-- P2: the packed words of a load, then the last byte. -/
theorem test_loadWrites_packed :
    loadWrites 0x100000 (fun _ => true) 0 [10, 10, 10, 200, 200]
      = [⟨0x100000, .write4 0xC80A0A0A⟩, ⟨0x100004, .write1 0xC8⟩] := by decide +kernel

/-- R102: unpacked, one byte write per sample, in order. -/
theorem test_loadWrites_bytes :
    loadWrites 0x100000 (fun _ => false) 0 [1, 2, 3, 4, 5, 6]
      = [⟨0x100000, .write1 1⟩, ⟨0x100001, .write1 2⟩, ⟨0x100002, .write1 3⟩, ⟨0x100003, .write1 4⟩,
          ⟨0x100004, .write1 5⟩, ⟨0x100005, .write1 6⟩] := by decide +kernel

/-- `WAIT` on a busy block stays; on an idle one it goes on. -/
theorem test_wait :
    (match HostProgram.run [.host] waitIdle (busy .hist 1 1 [7]) with | .next (.wait _, _) => true | _ => false) = true
      ∧ (match HostProgram.run [.host] waitIdle State.reset with | .next (.ret _, _) => true | _ => false) = true := by
  decide +kernel

/-! ### States that meet the hypotheses of the statements, one theorem per statement -/

/-- A ready block with a 3 by 3 grid of one value. -/
def flat (i : Instr) (v : Nat) : State := busy i 3 3 (List.replicate 9 v)

/-- A ready block with a 3 by 3 grid of distinct samples, as grid A and, turned round, as grid B. -/
def nine (i : Instr) : State :=
  withB (busy i 3 3 [1, 2, 3, 4, 5, 6, 7, 8, 9]) 3 3 [9, 8, 7, 6, 5, 4, 3, 2, 1]

/-- The block after the histogram of a 1 by 3 grid. -/
def counted (i : Instr) : State :=
  { busy i 1 3 [10, 200, 10] with
    bins := (clearBins.set 10 2).set 200 1, low := 10, high := 200, hvalid := true }

theorem witness_DecodeFollowsOpcodeTable : decode 0x00006405 = .instr (.bin 100) := by decide

theorem witness_IllegalWordsRaiseIllegalOp :
    (idle 3 3 []).busy = false ∧ (∃ why, decode 0x00010005 = .illegal why) ∧ (∃ why, decode 0x00000103 = .illegal why)
      ∧ ∃ why, decode 0x00000013 = .illegal why :=
  ⟨rfl, ⟨.reservedBits, by decide⟩, ⟨.immediate, by decide⟩, ⟨.reservedOpcode 0x13, by decide⟩⟩

theorem witness_HostCmdWriteRunsDecodedCommand : (idle 3 3 []).busy = false ∧ decode 0x00000012 = .instr .max := by
  decide +kernel

theorem witness_EngineStepRunsLatchedCommand :
    (nine .max).busy = true ∧ decode (nine .max).cmd = .instr .max := by decide +kernel

theorem witness_IdleBlockStaysAsItIs : State.reset.busy = false := rfl

/-- Grid A exactly fills the memory. -/
theorem witness_AcceptanceStartsCommand :
    (idle 1024 1024 []).busy = false ∧ GridFits (idle 1024 1024 [])
      ∧ (Instr.hist = .max → (idle 1024 1024 []).bW = (idle 1024 1024 []).aW ∧ (idle 1024 1024 []).bH = (idle 1024 1024 []).aH)
      ∧ (Instr.max = .max → (withB (idle 3 4 []) 3 4 []).bW = (withB (idle 3 4 []) 3 4 []).aW
          ∧ (withB (idle 3 4 []) 3 4 []).bH = (withB (idle 3 4 []) 3 4 []).aH) := by
  refine ⟨rfl, ?_, nofun, fun _ => ⟨rfl, rfl⟩⟩
  unfold GridFits
  decide +kernel

/-- Each of the three causes; the grid is one row too large. -/
theorem witness_BadDimRejectsEveryCommand :
    (idle 0 3 []).busy = false ∧ (idle 0 3 []).aW = 0 ∧ (idle 3 0 []).aH = 0
      ∧ 2 ^ (idle 1024 1025 []).params.addrW < (idle 1024 1025 []).aW.toNat * (idle 1024 1025 []).aH.toNat := by
  decide +kernel

theorem witness_MaxRejectsMismatchedGrids :
    (withB (idle 2 6 []) 3 4 []).busy = false ∧ GridFits (withB (idle 2 6 []) 3 4 [])
      ∧ (withB (idle 2 6 []) 3 4 []).bW ≠ (withB (idle 2 6 []) 3 4 []).aW
      ∧ (withB (idle 2 6 []) 3 4 []).err ≠ .dimMismatch
      ∧ (∃ t, exec .max (withB (idle 2 6 []) 3 4 []) = .next t ∧ t.err = .dimMismatch)
      ∧ GridFits (withB (idle 2 6 []) 2 6 [])
      ∧ (withB (idle 2 6 []) 2 6 []).bW = (withB (idle 2 6 []) 2 6 []).aW
      ∧ (withB (idle 2 6 []) 2 6 []).bH = (withB (idle 2 6 []) 2 6 []).aH := by
  refine ⟨rfl, by unfold GridFits; decide +kernel, by decide +kernel, nofun, ⟨_, rfl, rfl⟩,
    by unfold GridFits; decide +kernel, rfl, rfl⟩

/-- Every cause, and none. -/
theorem witness_FirstErrorIsReported :
    (idle 2 6 []).busy = false ∧ (∃ why, decode 0 = .illegal why) ∧ decode 0x12 = .instr .max
      ∧ ¬ GridFits (idle 0 6 []) ∧ GridFits (idle 2 6 []) ∧ (idle 2 6 []).bW ≠ (idle 2 6 []).aW
      ∧ decode 0x03 = .instr .hist := by
  refine ⟨rfl, ⟨.reservedOpcode 0, by decide⟩, by decide, ?_, ?_, by decide +kernel, by decide⟩ <;> unfold GridFits <;> decide +kernel

theorem ready_nine (i : Instr) : Ready (nine i) := by
  refine ⟨rfl, ?_⟩
  unfold GridFits
  exact ⟨show BitVec.ofNat 16 3 ≠ 0 by decide, show BitVec.ofNat 16 3 ≠ 0 by decide, show 3 * 3 ≤ 2 ^ 20 by decide⟩

theorem witness_HistCountsEverySample : Ready (nine .hist) := ready_nine _

theorem witness_HistBoundsAreTight : Ready (nine .hist) := ready_nine _

theorem witness_HistConservesAndPermutes :
    Ready (busy .hist 1 3 [99, 100, 101]) ∧ Ready (busy .hist 3 1 [101, 99, 100])
      ∧ (busy .hist 1 3 [99, 100, 101]).params = (busy .hist 3 1 [101, 99, 100]).params
      ∧ List.Perm ((List.range (size (busy .hist 1 3 [99, 100, 101]))).map ((busy .hist 1 3 [99, 100, 101]).sample .A))
          ((List.range (size (busy .hist 3 1 [101, 99, 100]))).map ((busy .hist 3 1 [101, 99, 100]).sample .A)) := by
  refine ⟨⟨rfl, ?_⟩, ⟨rfl, ?_⟩, rfl, ?_⟩
  · unfold GridFits; decide +kernel
  · unfold GridFits; decide +kernel
  · exact show List.Perm [(99 : Sample), 100, 101] [101, 99, 100] by decide

theorem flat_is_uniform (i : Instr) (v : Sample) :
    ∀ j, j < size (flat i v.toNat) → (flat i v.toNat).sample .A j = v := by
  intro j hj
  have h9 : size (flat i v.toNat) = 9 := rfl
  rw [h9] at hj
  have h : ∀ j, j < 9 → (flat i v.toNat).sample .A j = BitVec.ofNat 8 v.toNat := by
    intro j hj
    interval_cases j <;> rfl
  rw [h j hj, BitVec.ofNat_toNat, BitVec.setWidth_eq]

theorem ready_flat (i : Instr) (v : Nat) : Ready (flat i v) := by
  refine ⟨rfl, ?_⟩
  unfold GridFits
  exact ⟨show BitVec.ofNat 16 3 ≠ 0 by decide, show BitVec.ofNat 16 3 ≠ 0 by decide, show 3 * 3 ≤ 2 ^ 20 by decide⟩

theorem witness_UniformGridGivesEqualBounds :
    Ready (flat .hist 255) ∧ (flat .hist 255).err = .none
      ∧ ∀ i, i < size (flat .hist 255) → (flat .hist 255).sample .A i = 255 :=
  ⟨ready_flat _ _, rfl, flat_is_uniform .hist 255⟩

theorem witness_BinThresholdsEverySample : Ready (nine (.bin 5)) := ready_nine _

theorem witness_BinCountsFollowHistogram : Ready (counted (.bin 100)) ∧ (counted (.bin 100)).HistogramCurrent := by
  refine ⟨⟨rfl, ?_⟩, ?_, ?_, ?_, ?_, ?_⟩
  · unfold GridFits; decide +kernel
  all_goals decide +kernel

theorem witness_StencilStoresProcessedSum : Ready (nine .convHpf) ∧ Interior (nine .convHpf) 1 1 :=
  ⟨ready_nine _, by unfold Interior; decide +kernel⟩

/-- The four corners of the grid are border pixels, and the interior pixel is not. -/
theorem witness_StencilBorderIsZero :
    Ready (nine .convAvg) ∧ Border (nine .convAvg) 0 0 ∧ Border (nine .convAvg) 0 2 ∧ Border (nine .convAvg) 2 0
      ∧ Border (nine .convAvg) 2 2 ∧ ¬ Border (nine .convAvg) 1 1 := by
  refine ⟨ready_nine _, ?_, ?_, ?_, ?_, ?_⟩ <;> unfold Border <;> decide +kernel

/-- V63i. -/
theorem witness_SmallGridsGiveZeroOutput : Ready (busy .convAvg 2 7 []) ∧ (busy .convAvg 2 7 []).aW.toNat < 3 := by
  refine ⟨⟨rfl, ?_⟩, by decide +kernel⟩
  unfold GridFits
  decide +kernel

theorem nine_default (i : Instr) :
    Ready (nine i) ∧ (nine i).params.values.klib = defaultKlib ∧ Interior (nine i) 1 1 :=
  ⟨ready_nine i, rfl, show 1 ≤ 1 ∧ 1 + 2 ≤ 3 ∧ 1 ≤ 1 ∧ 1 + 2 ≤ 3 by decide⟩

theorem witness_ConvAvgAveragesWindow :
    Ready (nine .convAvg) ∧ (nine .convAvg).params.values.klib = defaultKlib ∧ Interior (nine .convAvg) 1 1 :=
  nine_default _

theorem witness_ConvGaussSmoothsWindow :
    Ready (nine .convGauss) ∧ (nine .convGauss).params.values.klib = defaultKlib ∧ Interior (nine .convGauss) 1 1 :=
  nine_default _

theorem witness_ConvLapMeasuresLaplacian :
    Ready (nine .convLap) ∧ (nine .convLap).params.values.klib = defaultKlib ∧ Interior (nine .convLap) 1 1 :=
  nine_default _

theorem witness_ConvHpfClampsHighPass :
    Ready (nine .convHpf) ∧ (nine .convHpf).params.values.klib = defaultKlib ∧ Interior (nine .convHpf) 1 1 :=
  nine_default _

theorem witness_PrewittMeasuresDirections :
    Ready (nine .convPrwx) ∧ (nine .convPrwx).params.values.klib = defaultKlib ∧ Interior (nine .convPrwx) 1 1 :=
  nine_default _

theorem witness_SobelMeasuresDirections :
    Ready (nine .convSblx) ∧ (nine .convSblx).params.values.klib = defaultKlib ∧ Interior (nine .convSblx) 1 1 :=
  nine_default _

theorem witness_UniformInputPassesOrVanishes :
    Ready (flat .convAvg 7) ∧ (flat .convAvg 7).params.values.klib = defaultKlib
      ∧ (∀ i, i < size (flat .convAvg 7) → (flat .convAvg 7).sample .A i = 7) ∧ Interior (flat .convAvg 7) 1 1 :=
  ⟨ready_flat _ _, rfl, flat_is_uniform .convAvg 7, show 1 ≤ 1 ∧ 1 + 2 ≤ 3 ∧ 1 ≤ 1 ∧ 1 + 2 ≤ 3 by decide⟩

theorem witness_StencilIsTheLoopOfStores : Ready (nine .convSbly) := ready_nine _

theorem witness_MaxTakesGreaterSample : Ready (nine .max) := ready_nine _

theorem witness_EdgeCommandsCombineStencils : Ready (nine .edgePrw) ∧ Ready (nine .edgeSbl) :=
  ⟨ready_nine _, ready_nine _⟩

/-- Equal operands, exchanged operands, raised operands: one witness per clause. -/
theorem witness_CombinerLaws :
    (∀ b, ∀ b', Ready (withB (busy .max 1 1 b) 1 1 b')) ∧ size (busy .max 1 1 [5]) = size (busy .max 1 1 [9])
      ∧ (withB (busy .max 1 1 [5]) 1 1 [5]).sample .A 0 = (withB (busy .max 1 1 [5]) 1 1 [5]).sample .B 0
      ∧ (withB (busy .max 1 1 [5]) 1 1 [9]).sample .A 0 = (withB (busy .max 1 1 [9]) 1 1 [5]).sample .B 0
      ∧ (withB (busy .max 1 1 [5]) 1 1 [9]).sample .B 0 = (withB (busy .max 1 1 [9]) 1 1 [5]).sample .A 0
      ∧ ((withB (busy .max 1 1 [5]) 1 1 [0]).sample .A 0).toNat ≤ ((withB (busy .max 1 1 [6]) 1 1 [0]).sample .A 0).toNat := by
  refine ⟨fun b b' => ⟨rfl, ?_⟩, rfl, rfl, rfl, rfl, by decide +kernel⟩
  unfold GridFits
  exact ⟨show BitVec.ofNat 16 1 ≠ 0 by decide, show BitVec.ofNat 16 1 ≠ 0 by decide, show 1 * 1 ≤ 2 ^ 20 by decide⟩

/-- The same operands, other contents of O. -/
theorem witness_ResultsDependOnOperandsOnly :
    Ready (nine .max) ∧ Ready { nine .max with memO := mem [77], low := 3 }
      ∧ (nine .max).params = ({ nine .max with memO := mem [77], low := 3 } : State).params
      ∧ (nine .max).aW = ({ nine .max with memO := mem [77], low := 3 } : State).aW
      ∧ (∀ j, (nine .max).sample .A j = ({ nine .max with memO := mem [77], low := 3 } : State).sample .A j)
      ∧ ∀ j, (nine .max).sample .B j = ({ nine .max with memO := mem [77], low := 3 } : State).sample .B j :=
  ⟨ready_nine _, ⟨rfl, (ready_nine .max).2⟩, rfl, rfl, fun _ => rfl, fun _ => rfl⟩

theorem witness_BusyGateRefusesAllButPolling :
    (nine .max).busy = true ∧ 0x0C < 4 * 2 ^ (nine .max).params.addrW ∧ 0x0C ∈ [0x00, 0x04, 0x08, 0x0C]
      ∧ 0x3FFFFF < 4 * 2 ^ (nine .max).params.addrW
      ∧ ¬ ((⟨0x3FFFFF, .read1⟩ : Transaction).access = .read4 ∧ 0x3FFFFF ∈ [0x00, 0x04, 0x08, 0x0C]) := by
  decide +kernel

/-- The offsets where the cases of R64 meet. -/
theorem witness_TransactionErrorsFollowOrder :
    (nine .max).busError ⟨0x10, .read4⟩ = some .busy ∧ (nine .max).busError ⟨0x0C, .read4⟩ = none
      ∧ (nine .max).busError ⟨0x0C, .read1⟩ = some .sizeOrAlignment
      ∧ State.reset.busError ⟨0x2C, .read4⟩ = none ∧ State.reset.busError ⟨0x2F, .read4⟩ = some .sizeOrAlignment
      ∧ State.reset.busError ⟨0x30, .read4⟩ = some .unmapped ∧ State.reset.busError ⟨0x3FF, .read1⟩ = some .unmapped
      ∧ State.reset.busError ⟨0x400, .read4⟩ = none ∧ State.reset.busError ⟨0x9FC, .write4 0⟩ = some .readOnly
      ∧ State.reset.busError ⟨0xA00, .read4⟩ = some .unmapped ∧ State.reset.busError ⟨0xFFFFF, .read1⟩ = some .unmapped
      ∧ State.reset.busError ⟨0x100000, .write1 0⟩ = none ∧ State.reset.busError ⟨0x2FFFFF, .write1 0⟩ = none
      ∧ State.reset.busError ⟨0x300000, .write1 0⟩ = some .readOnly ∧ State.reset.busError ⟨0x3FFFFF, .read1⟩ = none
      ∧ State.reset.busError ⟨0x04, .write4 0⟩ = some .readOnly ∧ State.reset.busError ⟨0x08, .write4 0⟩ = none
      ∧ State.reset.busError ⟨0x1C, .write4 0⟩ = none ∧ State.reset.busError ⟨0x20, .write4 0⟩ = some .readOnly
      ∧ 0x3FFFFF < 4 * 2 ^ State.reset.params.addrW := by decide +kernel

theorem witness_StatusFieldsReadAndClear : (idle 1 1 []).busy = false ∧ (nine .max).busy = true := ⟨rfl, rfl⟩

/-- The greatest and the least written value; the state they leave reads them back. -/
theorem witness_DimensionRegistersKeepTheirBits :
    State.reset.busy = false
      ∧ ({ State.reset with aW := 0xFFFF } : State).aW = BitVec.ofNat 16 ((0xFFFFFFFF : Word).toNat % 2 ^ 16)
      ∧ State.reset.bH = BitVec.ofNat 16 ((0 : Word).toNat % 2 ^ 16) := by decide +kernel

theorem witness_ResultsAndConstantsRead : State.reset.busy = false := rfl

/-- The first and the last byte and word of a window. -/
theorem witness_WindowAccessIsLittleEndian :
    State.reset.busy = false ∧ 0 < 2 ^ State.reset.params.addrW ∧ 0 % 4 = 0 ∧ 0xFFFFC < 2 ^ State.reset.params.addrW
      ∧ 0xFFFFC % 4 = 0 ∧ 0xFFFFF < 2 ^ State.reset.params.addrW := by decide +kernel

theorem witness_WindowWritesTouchOneMemory :
    State.reset.busy = false ∧ 0xFFFFC < 2 ^ State.reset.params.addrW ∧ 0xFFFFC % 4 = 0 := by decide +kernel

theorem witness_ReadsHaveNoSideEffects :
    (⟨0x400, .read4⟩ : Transaction).access.isWrite = false ∧ 0x400 < 4 * 2 ^ State.reset.params.addrW := by decide +kernel

/-- The least offset outside the block. -/
theorem witness_OffsetsOutsideBlockStop : 4 * 2 ^ State.reset.params.addrW ≤ 0x400000 := by decide +kernel

/-- A busy state that meets the invariant, with the engine's turn last. -/
def underWay : State :=
  { nine .max with events := [rd4 0x0C, .engine] }

theorem underWay_inv : underWay.Inv where
  dims_fit := by unfold fitsDim; decide +kernel
  bins_fit := fun k => by
    have h : (binOf clearBins k).toNat < 2 ^ 32 := by rw [binOf_clearBins]; decide
    exact h
  mem_wf := by intro x; cases x <;> decide +kernel
  mem_within := by intro x; cases x <;> decide +kernel
  busy_flags := fun _ => ⟨rfl, rfl⟩
  busy_accepted := fun _ => ⟨by decide +kernel, .max, by decide, fun _ => by decide +kernel, nofun⟩
  histogram := nofun
  output := by decide +kernel
  err_named := nofun

theorem witness_StepKeepsInvariant : ∃ s t : State, s.Inv ∧ step s = .next t := ⟨underWay, _, underWay_inv, rfl⟩

theorem underWay_offsets : underWay.offsetsInRange := by
  intro t ht
  simp only [underWay, rd4, List.mem_cons, Event.host.injEq, reduceCtorEq, List.not_mem_nil, or_false] at ht
  subst ht
  exact show 0x0C < 4 * 2 ^ 20 by decide

theorem witness_ConsistentMachineNeverStops : underWay.Inv ∧ underWay.offsetsInRange := ⟨underWay_inv, underWay_offsets⟩

theorem witness_RunsFromResetAreSafe :
    ({ State.afterReset Params.default 0 with events := [rd4 0x0C, .engine] } : State).offsetsInRange := by
  intro t ht
  simp only [rd4, List.mem_cons, Event.host.injEq, reduceCtorEq, List.not_mem_nil, or_false] at ht
  subst ht
  exact show 0x0C < 4 * 2 ^ 20 by decide

theorem flat_hist_completes : ∃ t, step { flat .hist 7 with events := [.engine] } = .next t ∧ t.hvalid = true := by
  obtain ⟨low, high, he, -⟩ := completeHist_ok (s := { flat .hist 7 with events := [] }) (by decide +kernel)
  have hd : decode (flat .hist 7).cmd = .instr .hist := by decide
  have hb : (flat .hist 7).busy = true := rfl
  have hs : step { flat .hist 7 with events := [.engine] } = completeHist { flat .hist 7 with events := [] } := by
    simp only [step, engineStep, hb, hd, if_true]
    exact exec_busy_hist rfl
  exact ⟨_, hs.trans he, by simp only [State.finish_hvalid, State.putHistogram_hvalid]⟩

/-- `HIST` completing sets `HVALID`; a reset, `HIST` accepted, `A_W` and the A window's first and last byte clear it. -/
theorem witness_HvalidProtocol :
    (∃ t, step { flat .hist 7 with events := [.engine] } = .next t ∧ t.hvalid = true) ∧ (flat .hist 7).hvalid = false
      ∧ field State.hvalid (perform { idle 1 1 [7] with hvalid := true } .reset) = some false
      ∧ field (fun t => (t.hvalid, t.busy)) (perform { idle 1 1 [7] with hvalid := true } (wr4 0x08 3)) = some (false, true)
      ∧ field State.hvalid (perform { idle 1 1 [7] with hvalid := true } (wr4 0x10 1)) = some false
      ∧ field State.hvalid (perform { idle 1 1 [7] with hvalid := true } (wr4 0x14 1)) = some false
      ∧ field State.hvalid (perform { idle 1 1 [7] with hvalid := true } (wr1 0x100000 7)) = some false
      ∧ field State.hvalid (perform { idle 1 1 [7] with hvalid := true } (wr4 0x1FFFFC 7)) = some false
      ∧ (∃ t, perform State.reset (rd4 0x0C) = .next t ∧ t.hvalid = false) :=
  ⟨flat_hist_completes, rfl, by decide +kernel, by decide +kernel, by decide +kernel, by decide +kernel,
    by decide +kernel, by decide +kernel, _, rfl, rfl⟩

theorem witness_OnlyHistWritesHistogram : ∃ t, step { flat .hist 7 with events := [.engine] } = .next t :=
  have ⟨t, h, _⟩ := flat_hist_completes
  ⟨t, h⟩

theorem witness_SampleMemoriesHaveOneWriter :
    (∃ t, perform (idle 1 1 [7]) (wr1 0x100000 8) = .next t ∧ t.memA ≠ (idle 1 1 [7]).memA)
      ∧ ∃ t, step { flat .convAvg 7 with events := [.engine] } = .next t ∧ t.memO ≠ (flat .convAvg 7).memO :=
  ⟨⟨_, rfl, by decide +kernel⟩, ⟨_, rfl, by decide +kernel⟩⟩

theorem witness_BusyCommandRunsUndisturbed :
    (withB (idle 3 3 []) 3 3 []).busy = false ∧ GridFits (withB (idle 3 3 []) 3 3 [])
      ∧ (withB (idle 3 3 []) 3 3 []).bW = (withB (idle 3 3 []) 3 3 []).aW
      ∧ (withB (idle 3 3 []) 3 3 []).bH = (withB (idle 3 3 []) 3 3 []).aH
      ∧ ∀ a ∈ [(⟨0x0C, .read4⟩ : Transaction), ⟨0x100000, .write1 9⟩], a.addr < 4 * 2 ^ 20 := by
  refine ⟨rfl, ?_, rfl, rfl, by decide⟩
  unfold GridFits
  decide +kernel

/-- A busy state that meets the invariant, with nothing but a poll scheduled. -/
theorem witness_BusyCommandCompletes :
    ∃ s : State, s.Inv ∧ s.busy = true ∧ s.events = [(⟨0x0C, .read4⟩ : Transaction)].map Event.host
      ∧ ∀ a ∈ [(⟨0x0C, .read4⟩ : Transaction)], a.addr < 4 * 2 ^ s.params.addrW :=
  ⟨{ underWay with events := [rd4 0x0C] },
    ⟨underWay_inv.dims_fit, underWay_inv.bins_fit, fun x => by cases x <;> decide +kernel,
      fun x => by cases x <;> decide +kernel, underWay_inv.busy_flags,
      fun h => ⟨(underWay_inv.busy_accepted h).1, (underWay_inv.busy_accepted h).2⟩, nofun, underWay_inv.output, nofun⟩,
    rfl, rfl, by decide +kernel⟩

theorem witness_GonzalezStaysInRange : (0 : Nat) ≤ 255 ∧ (255 : Nat) ≤ 255 := by decide

theorem witness_StretchingAndEqualizationFill :
    (10 : Sample).toNat < (200 : Sample).toNat ∧ (10 : Sample).toNat ≤ (105 : Sample).toNat
      ∧ (105 : Sample).toNat ≤ (200 : Sample).toNat ∧ 0 < 25 ∧ cumulative histT1 200 = 25
      ∧ ∀ k, 200 < k → histT1 k = 0 := by
  refine ⟨by decide, by decide, by decide, by decide, by decide +kernel, fun k hk => ?_⟩
  simp only [histT1]
  rw [if_neg (by omega), if_neg (by omega)]

/-- V3: 230 + 50 and 20 - 50. -/
theorem witness_PointTransformLaws :
    0 < 2 ∧ (-1 : Int) < 0 ∧ ((0 : Int) < 50 ∧ 255 < (230 : Sample).toNat + (50 : Int))
      ∧ ((-50 : Int) < 0 ∧ (20 : Sample).toNat + (-50 : Int) < 0) := by decide

/-- An idle block with room for a 2 by 2 grid, and with an output grid; the extremes of the lengths (no sample, a memory
full of them) meet the bounds too. -/
theorem witness_WaitLoadAndReadoDoAsTheyExpand :
    (idle 3 3 []).busy = false ∧ (2 : Word).toNat < 2 ^ (idle 3 3 []).params.dimW
      ∧ (2 : Word).toNat * (2 : Word).toNat ≤ 2 ^ (idle 3 3 []).params.addrW
      ∧ (0 : Word).toNat * (2 : Word).toNat ≤ 2 ^ (idle 3 3 []).params.addrW
      ∧ (1024 : Word).toNat * (1024 : Word).toNat ≤ 2 ^ (idle 3 3 []).params.addrW
      ∧ ({ idle 3 3 [] with oW := 3, oH := 3 } : State).oW.toNat * ({ idle 3 3 [] with oW := 3, oH := 3 } : State).oH.toNat
          ≤ 2 ^ (idle 3 3 []).params.addrW := by decide +kernel

theorem witness_HistdumpReportsPairs : (idle 1024 1024 []).busy = false ∧ GridFits (idle 1024 1024 []) := by
  refine ⟨rfl, ?_⟩
  unfold GridFits
  decide +kernel

theorem witness_GbinBinarizesByOwnThreshold : (idle 5 5 imageT1).busy = false ∧ GridFits (idle 5 5 imageT1) := by
  refine ⟨rfl, ?_⟩
  unfold GridFits
  decide +kernel

end Sys2Proof.Tests
end

/-! The rules of the state (10_state.md): what every step keeps, what the registers read as, what a step can change. -/

namespace Sys2Proof.Machine

/-! ## The invariant (10_state.md R28 to R34, R37; 70_reset_and_hazards.md R227) -/

section Invariant

variable {s t : State}

/-! ### The state after a reset -/

theorem State.afterReset_bin_lt (p : Params) (n : Nat) (k : Sample) :
    ((State.afterReset p n).bin k).toNat < 2 ^ p.cntW := by
  have hbin : (State.afterReset p n).bin k = BitVec.ofNat 32 (Config.resetBin n k.toNat % 2 ^ p.cntW) := by
    simp [State.bin, binOf, State.afterReset, resetBins]
  rw [hbin, BitVec.toNat_ofNat]
  exact lt_of_le_of_lt (Nat.mod_le _ _) (Nat.mod_lt _ (Nat.two_pow_pos _))

theorem State.afterReset_mem (p : Params) (n : Nat) (x : MemId) : (State.afterReset p n).mem x = [] := by
  cases x <;> rfl

theorem State.afterReset_inv (p : Params) (n : Nat) : (State.afterReset p n).Inv where
  dims_fit := by
    have h : fitsDim p 0 := Nat.two_pow_pos _
    exact ⟨h, h, h, h, h, h⟩
  bins_fit := State.afterReset_bin_lt p n
  mem_wf x := by simp [State.afterReset_mem]
  mem_within x := by simp [State.afterReset_mem]
  busy_flags := nofun
  busy_accepted := nofun
  histogram := nofun
  output := ⟨Iff.rfl, Nat.zero_le _⟩
  err_named := nofun

/-! ### Updates that keep the invariant -/

/-- The invariant does not speak of what is scheduled or of what the host has received. -/
theorem State.Inv.withSchedule (h : s.Inv) (es : List Event) (rs : List Response) :
    ({ s with events := es, responses := rs } : State).Inv :=
  { h with
    busy_accepted := fun hb => { h.busy_accepted hb with }
    histogram := fun hv => ⟨(h.histogram hv).1, { (h.histogram hv).2 with }⟩ }

theorem State.Inv.respond (h : s.Inv) (r : Response) : (s.respond r).Inv := h.withSchedule _ _

theorem State.Inv.pop (h : s.Inv) : s.pop.Inv := h.withSchedule _ _

theorem State.Inv.takeReset (s : State) : s.takeReset.Inv := (State.afterReset_inv _ _).withSchedule _ _

/-- What is claimed of a busy block holds of an idle one. -/
theorem State.of_idle (hb : s.busy = false) {P : Prop} (h : s.busy = true) : P :=
  absurd h (Bool.eq_false_iff.mp hb)

theorem State.Inv.writeStatus (h : s.Inv) (hb : s.busy = false) (v : Word) : (s.writeStatus v).Inv :=
  { h with
    busy_flags := State.of_idle hb
    busy_accepted := State.of_idle hb
    histogram := fun hv => ⟨(h.histogram hv).1, { (h.histogram hv).2 with }⟩ }

theorem fitsDim_dimOf (p : Params) (v : Word) : fitsDim p (dimOf p v) := by
  rw [fitsDim, dimOf, BitVec.toNat_ofNat]
  exact lt_of_le_of_lt (Nat.mod_le _ _) (Nat.mod_lt _ (Nat.two_pow_pos _))

/-- A write of `A_W` or `A_H` (R28): `HVALID` falls, so nothing is claimed of the histogram. -/
theorem State.Inv.setDimsA (h : s.Inv) (hb : s.busy = false) {w k : Dim} (hw : fitsDim s.params w)
    (hk : fitsDim s.params k) : ({ s with aW := w, aH := k, hvalid := false } : State).Inv :=
  { h with
    dims_fit := ⟨hw, hk, h.dims_fit.2.2⟩
    busy_accepted := State.of_idle hb
    histogram := nofun }

/-- A write of `B_W` or `B_H` (R29): grid A and the histogram are as before. -/
theorem State.Inv.setDimsB (h : s.Inv) (hb : s.busy = false) {w k : Dim} (hw : fitsDim s.params w)
    (hk : fitsDim s.params k) : ({ s with bW := w, bH := k } : State).Inv :=
  { h with
    dims_fit := ⟨h.dims_fit.1, h.dims_fit.2.1, hw, hk, h.dims_fit.2.2.2.2⟩
    busy_accepted := State.of_idle hb
    histogram := fun hv => ⟨(h.histogram hv).1, { (h.histogram hv).2 with }⟩ }

/-- A host write to a window: only a write to A bears on the histogram, and it clears `HVALID` (R35). -/
theorem State.Inv.setMem (h : s.Inv) (hb : s.busy = false) (x : MemId) {m : Memory} (hwf : m.wf)
    (hin : m.within s.params.maxSamples) : (s.setMem x m).Inv where
  dims_fit := by simpa using h.dims_fit
  bins_fit := by simpa using h.bins_fit
  mem_wf y := by
    rw [State.setMem_mem]
    split_ifs
    exacts [hwf, h.mem_wf y]
  mem_within y := by
    rw [State.setMem_mem, State.setMem_params]
    split_ifs
    exacts [hin, h.mem_within y]
  busy_flags := State.of_idle (by simpa using hb)
  busy_accepted := State.of_idle (by simpa using hb)
  histogram hv := by
    cases x with
    | A => cases hv
    | B => exact ⟨(h.histogram hv).1, { (h.histogram hv).2 with }⟩
    | O => exact ⟨(h.histogram hv).1, { (h.histogram hv).2 with }⟩
  output := by simpa using h.output
  err_named := by simpa using h.err_named

/-! ### Acceptance and command errors -/

theorem State.Inv.latchCommand (h : s.Inv) (hb : s.busy = false) (w : Word) : (s.latchCommand w).Inv :=
  { h with
    busy_flags := State.of_idle hb
    busy_accepted := State.of_idle hb
    histogram := fun hv => ⟨(h.histogram hv).1, { (h.histogram hv).2 with }⟩
    err_named := nofun }

theorem State.Inv.raiseCmdError (h : s.Inv) (hb : s.busy = false) {c : ErrCode} (hc : c ≠ .invalidParam) :
    (s.raiseCmdError c).Inv :=
  { h with
    busy_flags := State.of_idle hb
    busy_accepted := State.of_idle hb
    histogram := fun hv => ⟨(h.histogram hv).1, { (h.histogram hv).2 with }⟩
    err_named := hc }

theorem State.Inv.clearHvalid (h : s.Inv) (hb : s.busy = false) : s.clearHvalid.Inv :=
  { h with
    busy_accepted := State.of_idle hb
    histogram := nofun }

theorem State.Inv.startBusy (h : s.Inv) (hd : s.done = false) (he : s.err = .none) (ha : s.startBusy.Accepted) :
    s.startBusy.Inv :=
  { h with
    busy_flags := fun _ => ⟨hd, he⟩
    busy_accepted := fun _ => ha
    histogram := fun hv => ⟨(h.histogram hv).1, { (h.histogram hv).2 with }⟩ }

/-- The checks of R191 are what makes the busy state an accepted one. -/
theorem State.Inv.accept (h : s.Inv) (hb : s.busy = false) (hd : s.done = false) (he : s.err = .none) {i : Instr}
    (hi : decode s.cmd = .instr i) (hg : s.gridOk = true) (hm : i = .max → s.gridsMatch = true) : (s.accept i).Inv := by
  by_cases hist : i = .hist
  · rw [State.accept, if_pos hist]
    exact (h.clearHvalid hb).startBusy hd he ⟨hg, i, hi, hm, fun _ => rfl⟩
  · rw [State.accept, if_neg hist]
    exact h.startBusy hd he ⟨hg, i, hi, hm, fun e => absurd e hist⟩

theorem Issued.inv {w : Word} (ht : Issued w (s.latchCommand w) t) (h : s.Inv) (hb : s.busy = false) : t.Inv := by
  have hl := h.latchCommand hb w
  cases ht with
  | illegal => exact hl.raiseCmdError hb nofun
  | badDim => exact hl.raiseCmdError hb nofun
  | mismatch => exact hl.raiseCmdError hb nofun
  | accepted i hi hg hm => exact hl.accept hb rfl rfl hi hg hm

/-! ### Completing steps -/

theorem State.Inv.putGrid_finish (h : s.Inv) (hg : s.gridOk = true) (pix : Nat → Sample) :
    (s.putGrid pix).finish.Inv where
  dims_fit := by
    obtain ⟨aW, aH, bW, bH, -, -⟩ := h.dims_fit
    exact ⟨aW, aH, bW, bH, aW, aH⟩
  bins_fit := h.bins_fit
  mem_wf
    | .A => h.mem_wf .A
    | .B => h.mem_wf .B
    | .O => Memory.fill_wf (h.mem_wf .O) _ _
  mem_within
    | .A => h.mem_within .A
    | .B => h.mem_within .B
    | .O => Memory.fill_within (h.mem_within .O) (State.gridSize_le hg) _
  busy_flags := nofun
  busy_accepted := nofun
  histogram hv := ⟨hg, { (h.histogram hv).2 with }⟩
  output := by
    obtain ⟨hw, hh, hsize⟩ := s.gridOk_iff.mp hg
    exact ⟨iff_of_false hw hh, hsize⟩
  err_named := h.err_named

theorem buildBins_lt (hg : s.gridOk = true) (k : Sample) :
    (binOf (buildBins s.params.cntW s.gridSamples) k).toNat < 2 ^ s.params.cntW := by
  rw [binOf_buildBins_grid hg]
  calc s.gridSamples.count k ≤ s.gridSamples.length := List.count_le_length
    _ = s.gridSize := s.length_gridSamples
    _ ≤ s.params.maxSamples := State.gridSize_le hg
    _ < 2 ^ s.params.cntW := s.params.maxSamples_lt_count

theorem State.occurrences_ne_zero {k : Sample} : s.occurrences k ≠ 0 ↔ k ∈ s.gridSamples :=
  Nat.pos_iff_ne_zero.symm.trans List.count_pos_iff

/-- The histogram invariant of R34 holds when `HIST` has completed. -/
theorem State.putHistogram_current (hg : s.gridOk = true) {low high : Sample} (hl : low ∈ s.gridSamples)
    (hh : high ∈ s.gridSamples) (least : ∀ k ∈ s.gridSamples, low.toNat ≤ k.toNat)
    (greatest : ∀ k ∈ s.gridSamples, k.toNat ≤ high.toNat) :
    (s.putHistogram (buildBins s.params.cntW s.gridSamples) low high).finish.HistogramCurrent where
  bin_eq := binOf_buildBins_grid hg
  low_occurs := State.occurrences_ne_zero.mpr hl
  high_occurs := State.occurrences_ne_zero.mpr hh
  low_least k hk := least k (State.occurrences_ne_zero.mp hk)
  high_greatest k hk := greatest k (State.occurrences_ne_zero.mp hk)

theorem Completed.inv {i : Instr} (ht : Completed i s t) (h : s.Inv) : t.Inv := by
  cases ht with
  | grid _ hg => exact h.putGrid_finish hg _
  | hist _ hg low high hl hh least greatest =>
    exact { h with
      bins_fit := buildBins_lt hg
      busy_flags := nofun
      busy_accepted := nofun
      histogram := fun _ => ⟨hg, State.putHistogram_current hg hl hh least greatest⟩ }

/-! ### Every step -/

theorem Transacted.inv {a : Transaction} (ht : Transacted a s t) (h : s.Inv) : t.Inv := by
  obtain ⟨aW, aH, bW, bH, -, -⟩ := h.dims_fit
  cases ht with
  | error => exact h.respond _
  | read => exact h.respond _
  | status _ hb => exact (h.writeStatus hb _).respond _
  | aW _ hb => exact (h.setDimsA hb (fitsDim_dimOf _ _) aH).respond _
  | aH _ hb => exact (h.setDimsA hb aW (fitsDim_dimOf _ _)).respond _
  | bW _ hb => exact (h.setDimsB hb (fitsDim_dimOf _ _) bH).respond _
  | bH _ hb => exact (h.setDimsB hb bW (fitsDim_dimOf _ _)).respond _
  | word _ hb x i _ _ hi v =>
    exact (h.setMem hb x (Memory.writeWord_wf (h.mem_wf x) i v)
      (Memory.writeWord_within (h.mem_within x) hi v)).respond _
  | byte _ hb x i _ _ hi v =>
    exact (h.setMem hb x (Memory.write_wf (h.mem_wf x) i v) (Memory.write_within (h.mem_within x) hi v)).respond _
  | issue _ hb _ w _ _ hi => exact hi.inv (h.respond _) hb

theorem Stepped.inv (ht : Stepped s t) (h : s.Inv) : t.Inv := by
  cases ht with
  | host _ _ _ _ _ ht => exact ht.inv h.pop
  | complete _ _ _ _ _ ht => exact ht.inv h.pop
  | idle => exact h.pop
  | reset => exact State.Inv.takeReset _

end Invariant

/-- Settles O45: no register exceeds its width, no byte is listed and the bins are cut to `CNT_W` bits. -/
theorem resetMeetsInvariant : Obligations.ResetMeetsInvariant := State.afterReset_inv

/-- Settles O46, by the inversion law of the step: each thing a step can do keeps the invariant. -/
theorem stepKeepsInvariant : Obligations.StepKeepsInvariant := fun _ _ h hs => (step_next hs).inv h

/-! ## Registers and windows as the host reads and writes them (10_state.md R23 to R43; 20_memory.md R60 to R70) -/

section Answers

open Sys2Proof.Statement

variable {s : State} {a : Transaction} {addr : Nat} {r : Reg} {v : Word}

theorem State.readWord_withEvents (s : State) (rest : List Event) (r : Region) :
    ({ s with events := rest } : State).readWord r = s.readWord r := by
  cases r with
  | register r => cases r <;> rfl
  | _ => rfl

/-- An aligned word read of a mapped location that the busy gate lets through. -/
theorem answers_readWord {r : Region} (ha : addr < 4 * s.params.maxSamples) (h4 : addr % 4 = 0)
    (hr : regionOf s.params addr = r) (hm : r ≠ .unmapped) (hb : s.busy = true → addr < 0x10) :
    Answers s ⟨addr, .read4⟩ (s.readWord r) s := by
  intro rest
  have he : s.busError ⟨addr, .read4⟩ = none := by
    refine State.busError_eq_none (fun h => ⟨rfl, hb h⟩) ?_ ?_ nofun
    · rw [← regionOf_unmapped, hr]
      exact hm
    · simp [Access.size, h4]
  rw [← hr, ← State.readWord_withEvents s rest]
  exact hostStep_read4 (s := { s with events := rest }) ha he

/-- A word read of a register: the first four at any time, the others while idle. -/
theorem answers_readReg (h : addr < 0x30) (h4 : addr % 4 = 0) (hr : registers[addr / 4]? = some r)
    (hb : s.busy = true → addr < 0x10) : Answers s ⟨addr, .read4⟩ (s.readReg r) s := by
  have := s.params.maxSamples_ge
  refine answers_readWord (r := .register r) (by omega) h4 ?_ nofun hb
  obtain ⟨r', hr', he⟩ := regionOf_register s.params h
  rw [he, Option.some.inj (hr.symm.trans hr')]

/-- A word written to a register other than `CMD` and the read-only ones, while idle. -/
theorem answers_writeReg (hb : s.busy = false) (h1 : 0x0C ≤ addr) (h2 : addr < 0x20) (h4 : addr % 4 = 0)
    (hr : registers[addr / 4]? = some r) (hc : r ≠ .cmd) :
    Answers s ⟨addr, .write4 v⟩ 0 (s.writeWord v (.register r)) := by
  intro rest
  have := s.params.maxSamples_ge
  obtain ⟨r', hr', hreg⟩ := regionOf_register s.params (addr := addr) (by omega)
  obtain rfl : r = r' := Option.some.inj (hr.symm.trans hr')
  have he : s.busError ⟨addr, .write4 v⟩ = none :=
    State.busError_eq_none (State.of_idle hb) (by dsimp only; omega) (by simp [Access.size, h4])
      (fun _ => by dsimp only; omega)
  have hstep := hostStep_write4 (s := { s with events := rest }) (by dsimp only; omega) he
    (by rw [hreg]; exact fun h => hc (Region.register.inj h))
  rw [hreg] at hstep
  refine Eq.trans hstep ?_
  cases r <;> rfl

theorem rejects_of_busError (ha : a.addr < 4 * s.params.maxSamples) (h : s.busError a ≠ none) : ∃ e, Rejects s a e := by
  obtain ⟨e, he⟩ := Option.ne_none_iff_exists'.mp h
  exact ⟨e, fun rest => hostStep_error (s := { s with events := rest }) ha he⟩

/-- A write of `ID` or `CAP` is answered ERROR, busy or idle (R24, R25). -/
theorem rejects_write_identification (h : a.addr < 0x08) (hw : a.access.isWrite = true) : ∃ e, Rejects s a e := by
  have := s.params.maxSamples_ge
  refine rejects_of_busError (by omega) fun he => ?_
  obtain ⟨-, hmap, -, hro⟩ := State.busError_none he
  exact absurd ((hro hw).symm.trans ((regionOf_readOnly _ hmap).mpr (.inl h))) Bool.false_ne_true

/-- A write while busy is answered ERROR (R70). -/
theorem rejects_write_busy (ha : a.addr < 4 * s.params.maxSamples) (hw : a.access.isWrite = true)
    (hb : s.busy = true) : ∃ e, Rejects s a e := by
  refine rejects_of_busError ha fun he => ?_
  obtain ⟨h, -, -, -⟩ := State.busError_none he
  exact absurd ((h hb).1.symm.trans hw) Bool.false_ne_true

/-! ### Contents of the registers -/

/-- The three widths in `CAP` (R25). -/
theorem capWord_eq (p : Params) :
    Params.capWord p = BitVec.ofNat 32 (p.addrW + p.dimW * 2 ^ 8 + p.cntW * 2 ^ 16) := by
  rw [Params.capWord]
  congr 1
  omega

/-- The fields of `STATUS` (R27). -/
theorem State.statusWord_fields (s : State) :
    s.statusWord.getLsbD 0 = s.busy ∧ s.statusWord.getLsbD 1 = s.done ∧ s.statusWord.getLsbD 2 = s.hvalid
      ∧ s.statusWord.extractLsb' 3 5 = 0 ∧ s.statusWord.extractLsb' 12 20 = 0
      ∧ (s.statusWord.extractLsb' 8 4).toNat = s.err.code := by
  rw [State.statusWord]
  generalize s.busy = b, s.done = d, s.hvalid = h
  revert b d h
  cases s.err <;> decide

theorem State.writeStatus_eq (s : State) (v : Word) :
    s.writeStatus v = { s with done := if v.getLsbD 1 = true then false else s.done } := by
  rw [State.writeStatus]
  cases v.getLsbD 1 <;> simp

/-- A dimension register reads as the bits it keeps, the rest 0 (R28). -/
theorem dimOf_setWidth (p : Params) (v : Word) : (dimOf p v).setWidth 32 = BitVec.ofNat 32 (v.toNat % 2 ^ p.dimW) := by
  have hlt : v.toNat % 2 ^ p.dimW < 2 ^ 16 := lt_of_lt_of_le (Nat.mod_lt _ (Nat.two_pow_pos _)) p.dim_le
  rw [dimOf, ← BitVec.ofNat_toNat, BitVec.toNat_ofNat, Nat.mod_eq_of_lt hlt]

/-! ### The bins and the kernel window -/

theorem regionOf_bin (p : Params) (k : Sample) : regionOf p (0x400 + 4 * k.toNat) = .bin k := by
  have hk := k.isLt
  have hidx : (0x400 + 4 * k.toNat - 0x400) / 4 = k.toNat := by omega
  rw [regionOf, if_neg (by omega), if_neg (by omega), if_pos (by omega), hidx, BitVec.ofNat_toNat, BitVec.setWidth_eq]

theorem regionOf_klib (p : Params) (q : Fin 8) {j : Nat} (hj : j < 16) :
    regionOf p (0x800 + 0x40 * q.val + 4 * j) = .klib q j := by
  have hq := q.isLt
  have hentry : (0x800 + 0x40 * q.val + 4 * j - 0x800) / 0x40 = q.val := by omega
  have hword : (0x800 + 0x40 * q.val + 4 * j - 0x800) % 0x40 / 4 = j := by omega
  rw [regionOf, if_neg (by omega), if_neg (by omega), if_neg (by omega), if_pos (by omega), hentry, hword]
  congr 1
  exact Fin.ext (Nat.mod_eq_of_lt hq)

theorem answers_readBin (hb : s.busy = false) (k : Sample) : Answers s ⟨0x400 + 4 * k.toNat, .read4⟩ (s.bin k) s := by
  have hk := k.isLt
  have := s.params.maxSamples_ge
  exact answers_readWord (by omega) (by omega) (regionOf_bin _ k) nofun (State.of_idle hb)

theorem answers_readKlib (hb : s.busy = false) (q : Fin 8) {j : Nat} (hj : j < 16) :
    Answers s ⟨0x800 + 0x40 * q.val + 4 * j, .read4⟩ (klibWord (s.params.kernel q) j) s := by
  have hq := q.isLt
  have := s.params.maxSamples_ge
  exact answers_readWord (by omega) (by omega) (regionOf_klib _ q hj) nofun (State.of_idle hb)

theorem klibWord_coef (K : Kernel) (m n : Fin 3) : klibWord K (3 * m.val + n.val) = BitVec.ofInt 32 (K.coef m n) := by
  rw [klibWord, dif_pos (by omega)]
  rfl

theorem klibWord_den (K : Kernel) : klibWord K 9 = BitVec.ofNat 32 K.den.toNat := by
  rw [BitVec.ofNat_toNat]
  rfl

theorem klibWord_policy (K : Kernel) : klibWord K 10 = BitVec.ofNat 32 K.policy.code := rfl

theorem klibWord_scale (K : Kernel) : klibWord K 11 = BitVec.ofNat 32 K.scale.toNat := by
  rw [BitVec.ofNat_toNat]
  rfl

theorem klibWord_rest (K : Kernel) {j : Nat} (hj : 12 ≤ j) : klibWord K j = 0 := by
  rw [klibWord, dif_neg (by omega), if_neg (by omega), if_neg (by omega), if_neg (by omega)]

end Answers

/-- Settles O36: both registers pass the busy gate, and a write of either always meets a case of R64. -/
theorem identificationIsConstant : Obligations.IdentificationIsConstant := by
  refine ⟨fun s => ⟨?_, ?_, fun v => ⟨?_, ?_⟩⟩, ?_⟩
  · exact answers_readReg (r := .id) (by decide) rfl rfl (fun _ => by decide)
  · rw [← capWord_eq]
    exact answers_readReg (r := .cap) (by decide) rfl rfl (fun _ => by decide)
  · exact rejects_write_identification (show 0x00 < 0x08 by decide) rfl
  · exact rejects_write_identification (show 0x04 < 0x08 by decide) rfl
  · exact answers_readReg (r := .cap) (by decide) rfl rfl nofun

/-- Settles O37, with the fields of the word that `STATUS` reads as. -/
theorem statusFieldsReadAndClear : Obligations.StatusFieldsReadAndClear := by
  intro s
  have := s.params.maxSamples_ge
  obtain ⟨busy, done, hvalid, zero₁, zero₂, err⟩ := s.statusWord_fields
  refine ⟨⟨s.statusWord, answers_readReg (r := .status) (by decide) rfl rfl (fun _ => by decide), busy, done, hvalid,
    zero₁, zero₂, ?_⟩, fun v => ⟨fun hb => ?_, fun hb => ⟨?_, ?_⟩⟩, ?_⟩
  · rw [err]
    cases s.err <;> rfl
  · rw [← State.writeStatus_eq]
    exact answers_writeReg (r := .status) hb (by decide) (by decide) rfl rfl nofun
  · exact rejects_write_busy (by dsimp only; omega) rfl hb
  · exact rejects_write_busy (by dsimp only; omega) rfl hb
  · exact answers_readReg (r := .cmd) (by decide) rfl rfl (fun _ => by decide)

/-- Settles O38: one write rule and one read rule for the four registers. -/
theorem dimensionRegistersKeepTheirBits : Obligations.DimensionRegistersKeepTheirBits := by
  intro s v hb d
  refine ⟨answers_writeReg (r := .aW) hb (by decide) (by decide) rfl rfl nofun,
    answers_writeReg (r := .aH) hb (by decide) (by decide) rfl rfl nofun,
    answers_writeReg (r := .bW) hb (by decide) (by decide) rfl rfl nofun,
    answers_writeReg (r := .bH) hb (by decide) (by decide) rfl rfl nofun, fun u hu => ?_⟩
  have hread : BitVec.ofNat 32 (v.toNat % 2 ^ s.params.dimW) = d.setWidth 32 := (dimOf_setWidth s.params v).symm
  rw [hread]
  exact ⟨fun h => h ▸ answers_readReg (r := .aW) (by decide) rfl rfl (State.of_idle hu),
    fun h => h ▸ answers_readReg (r := .aH) (by decide) rfl rfl (State.of_idle hu),
    fun h => h ▸ answers_readReg (r := .bW) (by decide) rfl rfl (State.of_idle hu),
    fun h => h ▸ answers_readReg (r := .bH) (by decide) rfl rfl (State.of_idle hu)⟩

/-- Settles O39: one read rule for the registers, one for the bins and one for the words of a kernel entry. -/
theorem resultsAndConstantsRead : Obligations.ResultsAndConstantsRead := by
  intro s hb
  rw [BitVec.ofNat_toNat, BitVec.ofNat_toNat, BitVec.ofNat_toNat, BitVec.ofNat_toNat]
  refine ⟨answers_readReg (r := .oW) (by decide) rfl rfl (State.of_idle hb),
    answers_readReg (r := .oH) (by decide) rfl rfl (State.of_idle hb),
    answers_readReg (r := .low) (by decide) rfl rfl (State.of_idle hb),
    answers_readReg (r := .high) (by decide) rfl rfl (State.of_idle hb), answers_readBin hb, fun q => ?_⟩
  refine ⟨fun m n => ?_, ?_, ?_, ?_, fun j h1 h2 => ?_⟩
  · rw [← klibWord_coef]
    exact answers_readKlib hb q (by omega)
  · rw [← klibWord_den]
    exact answers_readKlib hb q (j := 9) (by decide)
  · rw [← klibWord_policy]
    exact answers_readKlib hb q (j := 10) (by decide)
  · rw [← klibWord_scale]
    exact answers_readKlib hb q (j := 11) (by decide)
  · rw [← klibWord_rest (s.params.kernel q) h1]
    exact answers_readKlib hb q h2

/-! ## What a step can change (10_state.md R30 to R39, R42) -/

section Frames

variable {s t : State} {a : Transaction} {i : Instr} {w : Word}

/-! ### Command words and locations -/

/-- `HIST` has one command word (R96). -/
theorem eq_of_decode_hist (h : decode w = .instr .hist) : w = 0x00000003 := by
  simp only [decode] at h
  split_ifs at h with hrsv hbin himm
  · cases h
  · rcases hf : plainCommands.find? (fun i => i.opcode == opc w) with _ | j <;> simp only [hf] at h <;> cases h
    obtain ⟨-, hop⟩ := find?_plainCommands (opc w) hf
    exact word_eq_of_fields hop.symm (not_not.mp himm) (not_not.mp hrsv)

/-- The offset of a transaction that is answered OKAY by the register number `j` (R23, R63). -/
theorem addr_of_register {r : Reg} {j : Nat} (he : s.busError a = none)
    (hr : regionOf s.params a.addr = .register r) (hj : registers[j]? = some r) : a.addr = 4 * j := by
  obtain ⟨-, -, hsize, -⟩ := State.busError_none he
  have hlt : a.addr < 0x30 := by
    by_contra h
    rw [regionOf, if_neg h] at hr
    split_ifs at hr
  obtain ⟨r', hr', hreg⟩ := regionOf_register s.params hlt
  obtain rfl := Region.register.inj (hreg.symm.trans hr)
  have hidx : a.addr / 4 = j :=
    List.getElem?_inj (l := registers) (show a.addr / 4 < 12 by omega) (by decide) |>.mp (hr'.trans hj.symm)
  have hal : a.addr % 4 = 0 := by
    rw [hr] at hsize
    simp only [Region.sizeOk, Bool.and_eq_true, decide_eq_true_eq] at hsize
    exact hsize.2
  omega

theorem regionOf_window_bounds {x : MemId} {j : Nat} (ha : a.addr < 4 * s.params.maxSamples)
    (hr : regionOf s.params a.addr = .window x j) :
    windowRank x * 2 ^ s.params.addrW ≤ a.addr ∧ a.addr < (windowRank x + 1) * 2 ^ s.params.addrW := by
  obtain ⟨hj, -, haddr⟩ := regionOf_window ha hr
  rw [Nat.add_mul, haddr, one_mul]
  exact ⟨Nat.le_add_right _ _, Nat.add_lt_add_left hj _⟩

theorem regionOf_windowA {p : Params} {addr : Nat} (h1 : 2 ^ p.addrW ≤ addr) (h2 : addr < 2 * 2 ^ p.addrW) :
    ∃ j, regionOf p addr = .window .A j := by
  obtain ⟨j, rfl⟩ := Nat.exists_eq_add_of_le h1
  refine ⟨j, ?_⟩
  have h := regionOf_windowOffset p .A (i := j) (show j < 2 ^ p.addrW by omega)
  rwa [windowRank, one_mul] at h

/-! ### Frames: everything a command, a transaction and a completing step leave alone -/

theorem State.accept_eq (i : Instr) (s : State) :
    s.accept i = { s with busy := true, hvalid := if i = .hist then false else s.hvalid } := by
  rw [State.accept]
  split_ifs <;> rfl

theorem Issued.frame (h : Issued w s t) :
    t = { s with busy := t.busy, done := t.done, hvalid := t.hvalid, err := t.err } := by
  cases h with
  | accepted => rw [State.accept_eq]
  | _ => rfl

/-- A host transaction leaves the parameters, the histogram and grid O alone. -/
theorem Transacted.frame (h : Transacted a s t) :
    t = { s with cmd := t.cmd, busy := t.busy, done := t.done, hvalid := t.hvalid, err := t.err, aW := t.aW,
                 aH := t.aH, bW := t.bW, bH := t.bH, memA := t.memA, memB := t.memB, responses := t.responses } := by
  cases h with
  | word _ _ x _ hx | byte _ _ x _ hx =>
    cases x with
    | A => rfl
    | B => rfl
    | O => exact absurd rfl hx
  | issue _ _ _ _ _ _ h =>
    rw [h.frame]
    rfl
  | _ => rfl

/-- A completing step leaves the parameters, grid A and grid B alone. -/
theorem Completed.frame (h : Completed i s t) :
    t = { s with busy := t.busy, done := t.done, hvalid := t.hvalid, oW := t.oW, oH := t.oH, low := t.low,
                 high := t.high, bins := t.bins, memO := t.memO } := by
  cases h <;> rfl

theorem Stepped.params_eq (h : Stepped s t) : t.params = s.params := by
  cases h with
  | host _ _ _ _ _ ht =>
    rw [ht.frame]
    rfl
  | complete _ _ _ _ _ ht =>
    rw [ht.frame]
    rfl
  | idle => rfl
  | reset => rfl

/-! ### The histogram (R31, R33) -/

theorem Transacted.histogram_eq (h : Transacted a s t) : t.bins = s.bins ∧ t.low = s.low ∧ t.high = s.high := by
  rw [h.frame]
  exact ⟨rfl, rfl, rfl⟩

/-- The step is the engine's turn. -/
abbrev State.enginesTurn (s : State) : Prop := s.events = [] ∨ ∃ rest, s.events = .engine :: rest

/-- A step that changes a bin, `LOW` or `HIGH` is a reset or completes `HIST`, which sets `HVALID`. -/
theorem Stepped.histogram (h : Stepped s t) :
    (t.bins = s.bins ∧ t.low = s.low ∧ t.high = s.high) ∨ (∃ rest, s.events = .reset :: rest)
      ∨ (s.busy = true ∧ decode s.cmd = .instr .hist ∧ s.enginesTurn) ∧ t.hvalid = true := by
  cases h with
  | host _ _ _ _ _ ht => exact .inl ht.histogram_eq
  | complete hb he i hd _ ht =>
    cases ht with
    | grid => exact .inl ⟨rfl, rfl, rfl⟩
    | hist hi =>
      subst hi
      exact .inr (.inr ⟨⟨hb, hd, he⟩, rfl⟩)
  | idle => exact .inl ⟨rfl, rfl, rfl⟩
  | reset rest he => exact .inr (.inl ⟨rest, he⟩)

/-! ### The sample memories (R37, R39) -/

/-- A transaction changes a memory only as a write to its window while idle. -/
theorem Transacted.mem_eq_or (h : Transacted a s t) (x : MemId) :
    t.mem x = s.mem x
      ∨ s.busy = false ∧ a.access.isWrite = true ∧ ∃ j, regionOf s.params a.addr = .window x j := by
  cases h with
  | word _ hb y j _ ha _ _ hv | byte _ hb y j _ ha _ _ hv =>
    by_cases hxy : x = y
    · subst hxy
      exact .inr ⟨hb, by rw [hv]; rfl, j, ha⟩
    · exact .inl (by simp [hxy])
  | issue _ _ _ _ _ _ h =>
    rw [h.frame]
    exact .inl rfl
  | _ => exact .inl rfl

theorem Transacted.grid_eq (h : Transacted a s t) : t.memO = s.memO ∧ t.oW = s.oW ∧ t.oH = s.oH := by
  rw [h.frame]
  exact ⟨rfl, rfl, rfl⟩

theorem Completed.inputs_eq (h : Completed i s t) : t.memA = s.memA ∧ t.memB = s.memB := by
  rw [h.frame]
  exact ⟨rfl, rfl⟩

theorem Completed.grid_eq_or (h : Completed i s t) :
    (t.memO = s.memO ∧ t.oW = s.oW ∧ t.oH = s.oH) ∨ i ≠ .hist := by
  cases h with
  | grid hi => exact .inr hi
  | hist => exact .inl ⟨rfl, rfl, rfl⟩

/-! ### `HVALID` (R35) -/

theorem Issued.hvalid_cleared (h : Issued w s t) (hs : s.hvalid = true) (ht : t.hvalid = false) :
    w = 0x00000003 ∧ t.busy = true := by
  cases h with
  | accepted i hd =>
    rw [State.accept_eq] at ht ⊢
    by_cases hi : i = .hist
    · exact ⟨eq_of_decode_hist (hi ▸ hd), rfl⟩
    · exact absurd ht (by simp [hi, hs])
  | _ => exact absurd ht (by simp [hs])

theorem Issued.hvalid_kept_false (h : Issued w s t) (hs : s.hvalid = false) : t.hvalid = false := by
  cases h with
  | accepted => simp [State.accept_eq, hs]
  | _ => exact hs

theorem Transacted.hvalid_kept_false (h : Transacted a s t) (hs : s.hvalid = false) : t.hvalid = false := by
  cases h with
  | word _ _ x => simp [hs]
  | byte _ _ x => simp [hs]
  | issue _ _ _ _ _ _ h => exact h.hvalid_kept_false hs
  | aW => rfl
  | aH => rfl
  | _ => exact hs

/-- A write that clears `HVALID` is answered OKAY and is one of those R35 names. -/
theorem Transacted.hvalid_cleared (h : Transacted a s t) (hs : s.hvalid = true) (ht : t.hvalid = false) :
    s.busy = false ∧ a.access.isWrite = true ∧ (∃ d, t.responses = ⟨none, d⟩ :: s.responses)
      ∧ (a.addr = 0x10 ∨ a.addr = 0x14 ∨ (∃ j, regionOf s.params a.addr = .window .A j)
          ∨ (a = ⟨0x08, .write4 0x00000003⟩ ∧ t.busy = true)) := by
  cases h with
  | aW he hb ha _ hv => exact ⟨hb, by rw [hv]; rfl, ⟨0, rfl⟩, .inl (addr_of_register he ha (j := 4) rfl)⟩
  | aH he hb ha _ hv => exact ⟨hb, by rw [hv]; rfl, ⟨0, rfl⟩, .inr (.inl (addr_of_register he ha (j := 5) rfl))⟩
  | word _ hb x j _ ha _ _ hv | byte _ hb x j _ ha _ _ hv =>
    obtain rfl : x = .A := by
      by_contra hx
      exact absurd ht (by simp [hx, hs])
    exact ⟨hb, by rw [hv]; rfl, ⟨0, rfl⟩, .inr (.inr (.inl ⟨j, ha⟩))⟩
  | issue he hb ha w hv _ hi =>
    obtain ⟨rfl, hbusy⟩ := hi.hvalid_cleared hs ht
    have haddr : a.addr = 0x08 := addr_of_register he ha (j := 2) rfl
    obtain ⟨addr, access⟩ := a
    obtain rfl : addr = 0x08 := haddr
    obtain rfl : access = .write4 0x00000003 := hv
    exact ⟨hb, rfl, ⟨0, by rw [hi.frame]; rfl⟩, .inr (.inr (.inr ⟨rfl, hbusy⟩))⟩
  | _ => exact absurd (hs.symm.trans ht) Bool.noConfusion

/-- An OKAY write to `A_W`, `A_H` or the A window clears `HVALID`. -/
theorem Transacted.hvalid_of_writeA (h : Transacted a s t) (hw : a.access.isWrite = true) {d : Word}
    (hok : t.responses = ⟨none, d⟩ :: s.responses)
    (ha : regionOf s.params a.addr = .register .aW ∨ regionOf s.params a.addr = .register .aH
      ∨ ∃ j, regionOf s.params a.addr = .window .A j) : t.hvalid = false := by
  cases h with
  | error e => simp [Response.err] at hok
  | read _ hr => exact absurd (hr.symm.trans hw) Bool.false_ne_true
  | aW => rfl
  | aH => rfl
  | word _ _ x _ _ hr | byte _ _ x _ _ hr =>
    obtain rfl : x = .A := by simpa [hr] using ha
    rfl
  | status _ _ hr | bW _ _ hr | bH _ _ hr | issue _ _ hr => simp [hr] at ha

end Frames

/-- Settles O8: the idle engine's turn is the identity on the block. -/
theorem idleBlockStaysAsItIs : Obligations.IdleBlockStaysAsItIs := by
  intro s hb
  have hidle : ∀ u : State, u.busy = false → engineStep u = .next u := fun u hu => by simp [engineStep, hu]
  exact ⟨fun rest => hidle { s with events := rest } hb, hidle { s with events := [] } hb⟩

/-- Settles O44: the registers by computation, the bins by the bound of the reset draw. -/
theorem resetPutsEveryRegisterToItsValue : Obligations.ResetPutsEveryRegisterToItsValue := fun s rest =>
  ⟨State.takeReset { s with events := rest }, rfl, rfl, State.afterReset_bin_lt s.params (s.epoch + 1),
    fun x _ => by cases x <;> rfl⟩

/-- Settles O50, by the inversion law of the step: a reset apart, only the bins that `HIST` builds differ. -/
theorem onlyHistWritesHistogram : Obligations.OnlyHistWritesHistogram := fun _ _ h =>
  (step_next h).histogram.imp_right (Or.imp_right And.left)

/-- Settles O51: a transaction changes A or B through its own window only, a completing step grid O only. -/
theorem sampleMemoriesHaveOneWriter : Obligations.SampleMemoriesHaveOneWriter := by
  intro s t h
  refine ⟨(step_next h).params_eq, ?_⟩
  cases step_next h with
  | host a rest he ha _ ht =>
    have window : ∀ x, t.mem x = s.mem x ∨ s.busy = false ∧ a.access.isWrite = true
        ∧ windowRank x * 2 ^ s.params.addrW ≤ a.addr ∧ a.addr < (windowRank x + 1) * 2 ^ s.params.addrW :=
      fun x => (ht.mem_eq_or x).imp_right fun ⟨hb, hw, _, hr⟩ => ⟨hb, hw, regionOf_window_bounds ha hr⟩
    refine .inr ⟨(window .A).imp_right fun ⟨hb, hw, h1, h2⟩ => ⟨a, rest, he, hb, hw, ?_, h2⟩,
      (window .B).imp_right fun ⟨hb, hw, h1, h2⟩ => ⟨a, rest, he, hb, hw, h1, h2⟩, .inl ht.grid_eq⟩
    rwa [windowRank, one_mul] at h1
  | complete hb he i hd _ ht =>
    obtain ⟨hA, hB⟩ := ht.inputs_eq
    exact .inr ⟨.inl hA, .inl hB, ht.grid_eq_or.imp_right fun hi => ⟨hb, i, hd, hi, he⟩⟩
  | idle => exact .inr ⟨.inl rfl, .inl rfl, .inl ⟨rfl, rfl, rfl⟩⟩
  | reset rest he => exact .inl ⟨rest, he⟩

/-! ### The clauses of R35 -/

section Hvalid

variable {s t : State}

theorem Stepped.sets_hvalid (h : Stepped s t) (hs : s.hvalid = false) (ht : t.hvalid = true) :
    s.busy = true ∧ decode s.cmd = .instr .hist ∧ s.enginesTurn := by
  have kept : ∀ {P : Prop}, t.hvalid = false → P := fun hf => absurd (hf.symm.trans ht) Bool.false_ne_true
  cases h with
  | host _ _ _ _ _ hc => exact kept (hc.hvalid_kept_false hs)
  | complete hb he i hd _ hc =>
    cases hc with
    | grid => exact kept hs
    | hist hi => exact ⟨hb, hi ▸ hd, he⟩
  | idle => exact kept hs
  | reset => exact kept rfl

theorem Stepped.clears_hvalid (h : Stepped s t) (hs : s.hvalid = true) (ht : t.hvalid = false) :
    (∃ rest, s.events = .reset :: rest)
    ∨ ∃ a rest d, s.events = .host a :: rest ∧ s.busy = false ∧ a.access.isWrite = true
        ∧ t.responses = ⟨none, d⟩ :: s.responses
        ∧ (a.addr = 0x10 ∨ a.addr = 0x14 ∨ (2 ^ s.params.addrW ≤ a.addr ∧ a.addr < 2 * 2 ^ s.params.addrW)
            ∨ (a = ⟨0x08, .write4 0x00000003⟩ ∧ t.busy = true)) := by
  have kept : ∀ {P : Prop}, t.hvalid = true → P := fun hf => absurd (ht.symm.trans hf) Bool.false_ne_true
  cases h with
  | host a rest he ha _ hc =>
    obtain ⟨hb, hw, ⟨d, hd⟩, hcause⟩ := hc.hvalid_cleared hs ht
    refine .inr ⟨a, rest, d, he, hb, hw, hd, ?_⟩
    refine hcause.imp_right (Or.imp_right (Or.imp_left fun ⟨_, hr⟩ => ?_))
    simpa [windowRank] using regionOf_window_bounds (s := s) ha hr
  | complete _ _ _ _ _ hc =>
    cases hc with
    | grid => exact kept hs
    | hist => exact kept rfl
  | idle => exact kept hs
  | reset rest he => exact .inl ⟨rest, he⟩

theorem exec_hist_busy_hvalid (hb : s.busy = true) (h : exec .hist s = .next t) : t.hvalid = true := by
  cases exec_busy_next hb h with
  | grid hi => exact absurd rfl hi
  | hist => rfl

theorem exec_hist_idle_hvalid (hb : s.busy = false) (h : exec .hist s = .next t) (ht : t.busy = true) :
    t.hvalid = false := by
  rw [exec_idle hb] at h
  cases h
  split_ifs at ht ⊢ with hg hm
  · exact State.of_idle hb ht
  · rw [State.accept_eq, if_pos rfl]
  · exact State.of_idle hb ht

theorem Stepped.hvalid_of_writeA {a : Transaction} {rest : List Event} {d : Word} (h : Stepped s t)
    (he : s.events = .host a :: rest) (hw : a.access.isWrite = true)
    (haddr : a.addr = 0x10 ∨ a.addr = 0x14 ∨ (2 ^ s.params.addrW ≤ a.addr ∧ a.addr < 2 * 2 ^ s.params.addrW))
    (hok : t.responses = ⟨none, d⟩ :: s.responses) : t.hvalid = false := by
  have hregion : regionOf s.params a.addr = .register .aW ∨ regionOf s.params a.addr = .register .aH
      ∨ ∃ j, regionOf s.params a.addr = .window .A j := by
    rcases haddr with haddr | haddr | ⟨h1, h2⟩
    · exact .inl (by rw [haddr]; rfl)
    · exact .inr (.inl (by rw [haddr]; rfl))
    · exact .inr (.inr (regionOf_windowA h1 h2))
  cases h with
  | host b rest' he' _ _ hc =>
    obtain ⟨h, -⟩ := List.cons.inj (he.symm.trans he')
    obtain rfl := Event.host.inj h
    exact hc.hvalid_of_writeA hw hok hregion
  | complete _ he' => simp [he] at he'
  | idle _ he' => simp [he] at he'
  | reset => rfl

end Hvalid

/-- Settles O49, clause by clause; the last one because the step that changes the histogram sets `HVALID`. -/
theorem hvalidProtocol : Obligations.HvalidProtocol := by
  refine ⟨fun s t h => (step_next h).sets_hvalid, fun s t h => (step_next h).clears_hvalid,
    fun s t => exec_hist_busy_hvalid, fun s t => exec_hist_idle_hvalid,
    fun s t a rest d he h => (step_next h).hvalid_of_writeA he, fun s rest => ⟨_, rfl, rfl⟩,
    fun s t h ht hreset => ?_⟩
  rcases (step_next h).histogram with hkept | ⟨rest, he⟩ | ⟨-, hset⟩
  · exact hkept
  · exact absurd he (hreset rest)
  · exact absurd (ht.symm.trans hset) Bool.false_ne_true

end Sys2Proof.Machine

/-! The host interface (20_memory.md R60 to R70): which transactions are answered ERROR, that reads change nothing, how
the sample windows are read and written. -/

namespace Sys2Proof.Machine

section Interface

open Sys2Proof.Statement

variable {s t : State} {a : Transaction}

/-! ### The ERROR cases (R64, R70) -/

/-- The gate is shut for a transaction: busy, and no read below 0x10 (R70). -/
theorem State.gate_iff (s : State) (a : Transaction) :
    (s.busy && !(!a.access.isWrite && (regionOf s.params a.addr).pollable)) = true
      ↔ s.busy = true ∧ ¬ (a.access.isWrite = false ∧ a.addr < 0x10) := by
  rw [← regionOf_pollable s.params a.addr]
  cases a.access.isWrite <;> simp

/-- The order of R64 in terms of the offset. -/
theorem State.busError_eq (s : State) (a : Transaction) :
    s.busError a =
      if s.busy = true ∧ ¬ (a.access.isWrite = false ∧ a.addr < 0x10) then some .busy
      else if (0x30 ≤ a.addr ∧ a.addr < 0x400) ∨ (0xA00 ≤ a.addr ∧ a.addr < s.params.maxSamples) then some .unmapped
      else if (a.addr < s.params.maxSamples ∧ a.access.size ≠ 4) ∨ (a.access.size = 4 ∧ a.addr % 4 ≠ 0) then
        some .sizeOrAlignment
      else if a.access.isWrite = true
          ∧ (a.addr < 0x08 ∨ (0x20 ≤ a.addr ∧ a.addr < s.params.maxSamples) ∨ 3 * s.params.maxSamples ≤ a.addr) then
        some .readOnly
      else none := by
  simp only [State.busError, State.gate_iff, ← regionOf_unmapped]
  by_cases hm : regionOf s.params a.addr = .unmapped
  · simp only [hm, if_true]
  · simp only [← regionOf_sizeOk s.params hm a.access.size_cases, ← regionOf_readOnly s.params hm, Bool.not_eq_true',
      Bool.and_eq_true]

/-- A transaction at an offset that R60 does not give the interface (log 9). -/
theorem hostStep_outside (ha : 4 * s.params.maxSamples ≤ a.addr) :
    hostStep a s = .fault (.offsetOutsideBlock a.addr) := if_pos ha

/-- A transaction that meets a case of R64 is answered so, and changes nothing. -/
theorem rejects_of_busError_eq_some (ha : a.addr < 4 * s.params.maxSamples) {e : BusError}
    (he : s.busError a = some e) : Rejects s a e :=
  fun rest => hostStep_error (s := { s with events := rest }) ha he

/-- A transaction that meets no case of R64 is answered OKAY. -/
theorem Transacted.okay (h : Transacted a s t) (he : s.busError a = none) :
    ∃ d, t.responses = ⟨none, d⟩ :: s.responses := by
  cases h with
  | error e he' => exact absurd (he.symm.trans he') nofun
  | read _ _ d => exact ⟨d, rfl⟩
  | word | byte => exact ⟨0, by simp [Response.okay]⟩
  | issue _ _ _ _ _ _ hi => exact ⟨0, by rw [hi.frame]; rfl⟩
  | _ => exact ⟨0, rfl⟩

theorem Transacted.events_eq (h : Transacted a s t) : t.events = s.events := by rw [h.frame]

/-- While busy, OKAY is the answer to a word read of one of the first four registers only. -/
theorem pollable_of_busError_none (hb : s.busy = true) (he : s.busError a = none) :
    a.access = .read4 ∧ a.addr ∈ [0x00, 0x04, 0x08, 0x0C] := by
  obtain ⟨hgate, hmap, hsize, -⟩ := State.busError_none he
  obtain ⟨hread, hpoll⟩ := hgate hb
  rw [regionOf_pollable] at hpoll
  have := s.params.maxSamples_ge
  have hword : ¬ ((a.addr < s.params.maxSamples ∧ a.access.size ≠ 4) ∨ (a.access.size = 4 ∧ a.addr % 4 ≠ 0)) := by
    rw [← regionOf_sizeOk s.params hmap a.access.size_cases, hsize]
    exact Bool.noConfusion
  have hsize4 : a.access.size = 4 := by omega
  refine ⟨?_, by simp only [List.mem_cons, List.not_mem_nil]; omega⟩
  revert hread hsize4
  cases a.access <;> simp [Access.isWrite, Access.size]

/-! ### Reads (R69) -/

theorem State.readWord_withSchedule (s : State) (es : List Event) (rs : List Response) (r : Region) :
    ({ s with events := es, responses := rs } : State).readWord r = s.readWord r := by
  cases r with
  | register r => cases r <;> rfl
  | _ => rfl

/-- A read is answered by the block's state alone, and only the record of responses changes. -/
theorem hostStep_of_read (hr : a.access.isWrite = false) (ha : a.addr < 4 * s.params.maxSamples) :
    ∃ r, ∀ es rs, hostStep a { s with events := es, responses := rs }
      = .next { s with events := es, responses := r :: rs } := by
  rcases he : s.busError a with _ | e
  · obtain ⟨addr, access⟩ := a
    cases access with
    | read1 =>
      exact ⟨.okay (s.readByte (regionOf s.params addr)), fun es rs =>
        hostStep_read1 (s := { s with events := es, responses := rs }) ha he⟩
    | read4 =>
      refine ⟨.okay (s.readWord (regionOf s.params addr)), fun es rs => ?_⟩
      rw [← State.readWord_withSchedule s es rs]
      exact hostStep_read4 (s := { s with events := es, responses := rs }) ha he
    | write1 | write4 => cases hr
  · exact ⟨.err e, fun es rs => hostStep_error (s := { s with events := es, responses := rs }) ha he⟩

/-! ### The sample windows (R65, R66) -/

/-- The four bytes of a word read. -/
theorem State.sampleWord_bytes (s : State) (x : MemId) (i : Nat) :
    (s.sampleWord x i).extractLsb' 0 8 = s.sample x i ∧ (s.sampleWord x i).extractLsb' 8 8 = s.sample x (i + 1)
      ∧ (s.sampleWord x i).extractLsb' 16 8 = s.sample x (i + 2)
      ∧ (s.sampleWord x i).extractLsb' 24 8 = s.sample x (i + 3) := by
  rw [State.sampleWord]
  refine ⟨?_, ?_, ?_, ?_⟩
  · rw [BitVec.extractLsb'_append_eq_right]
  · rw [BitVec.extractLsb'_append_eq_of_le (by decide), BitVec.extractLsb'_append_eq_right]
  · rw [BitVec.extractLsb'_append_eq_of_le (by decide), BitVec.extractLsb'_append_eq_of_le (by decide),
      BitVec.extractLsb'_append_eq_right]
  · rw [BitVec.extractLsb'_append_eq_of_le (by decide), BitVec.extractLsb'_append_eq_of_le (by decide),
      BitVec.extractLsb'_append_eq_left]

theorem State.setMem_writeWord_sample (s : State) (x : MemId) (i j : Nat) (v : Word) :
    (s.setMem x ((s.mem x).writeWord i v)).sample x j =
      if j = i + 3 then v.extractLsb' 24 8 else if j = i + 2 then v.extractLsb' 16 8
      else if j = i + 1 then v.extractLsb' 8 8 else if j = i then v.extractLsb' 0 8
      else s.sample x j := by
  simp only [State.sample, State.setMem_mem, State.setMem_epoch, if_true, Memory.read?_writeWord]
  split_ifs <;> rfl

section Windows

variable {x : MemId} {i : Nat}

/-- The offset `x + i` is one of the block (R61). -/
theorem windowOffset_lt {p : Params} (x : MemId) (hi : i < p.maxSamples) :
    windowRank x * p.maxSamples + i < 4 * p.maxSamples := by
  cases x <;> simp only [windowRank] <;> omega

theorem windowOffset_aligned {p : Params} (x : MemId) (h4 : i % 4 = 0) :
    (windowRank x * p.maxSamples + i) % 4 = 0 := by
  rw [Nat.add_mod, Nat.mul_mod, p.four_dvd_maxSamples, h4, Nat.mul_zero]

/-- While idle, a window takes single bytes and aligned words; O cannot be written (R64, R65). -/
theorem State.busError_window (hb : s.busy = false) (hi : i < s.params.maxSamples) {c : Access}
    (hsize : c.size = 1 ∨ i % 4 = 0) (hx : c.isWrite = true → x ≠ .O) :
    s.busError ⟨windowRank x * s.params.maxSamples + i, c⟩ = none := by
  have hr := regionOf_windowOffset s.params x hi
  have hok : (Region.window x i).sizeOk (windowRank x * s.params.maxSamples + i) c.size = true := by
    simpa [Region.sizeOk] using hsize.imp_right (windowOffset_aligned x)
  have hro : c.isWrite = true → (Region.window x i).readOnly = false := by
    intro hw
    cases x with
    | A | B => rfl
    | O => exact absurd rfl (hx hw)
  simpa [State.busError, hb, hr, hok] using hro

theorem answers_windowRead1 (hb : s.busy = false) (hi : i < s.params.maxSamples) :
    Answers s ⟨windowRank x * s.params.maxSamples + i, .read1⟩ (BitVec.ofNat 32 (s.sample x i).toNat) s := by
  intro rest
  have h := hostStep_read1 (s := { s with events := rest }) (windowOffset_lt x hi)
    (State.busError_window hb hi (.inl rfl) nofun)
  rw [regionOf_windowOffset s.params x hi] at h
  rw [BitVec.ofNat_toNat]
  exact h

theorem answers_windowRead4 (hb : s.busy = false) (hi : i < s.params.maxSamples) (h4 : i % 4 = 0) :
    Answers s ⟨windowRank x * s.params.maxSamples + i, .read4⟩ (s.sampleWord x i) s :=
  answers_readWord (windowOffset_lt x hi) (windowOffset_aligned x h4) (regionOf_windowOffset _ x hi) nofun
    (State.of_idle hb)

theorem answers_windowWrite1 (hb : s.busy = false) (hi : i < s.params.maxSamples) (hx : x ≠ .O) (v : BitVec 8) :
    Answers s ⟨windowRank x * s.params.maxSamples + i, .write1 v⟩ 0 (s.setMem x ((s.mem x).write i v)) := by
  intro rest
  have h := hostStep_write1 (s := { s with events := rest }) (windowOffset_lt x hi)
    (State.busError_window hb hi (c := .write1 v) (.inl rfl) fun _ => hx)
  rw [regionOf_windowOffset s.params x hi] at h
  refine Eq.trans h ?_
  cases x <;> rfl

theorem answers_windowWrite4 (hb : s.busy = false) (hi : i < s.params.maxSamples) (h4 : i % 4 = 0) (hx : x ≠ .O)
    (v : Word) :
    Answers s ⟨windowRank x * s.params.maxSamples + i, .write4 v⟩ 0 (s.setMem x ((s.mem x).writeWord i v)) := by
  intro rest
  have hr := regionOf_windowOffset s.params x hi
  have h := hostStep_write4 (s := { s with events := rest }) (windowOffset_lt x hi)
    (State.busError_window hb hi (c := .write4 v) (.inr h4) fun _ => hx) (by rw [hr]; nofun)
  rw [hr] at h
  refine Eq.trans h ?_
  cases x <;> rfl

/-- A byte written to a window of an idle block (R66). -/
theorem windowWrite1_stores (hb : s.busy = false) (hi : i < s.params.maxSamples) (hx : x ≠ .O) (v : BitVec 8) :
    ∃ t, Answers s ⟨windowRank x * s.params.maxSamples + i, .write1 v⟩ 0 t
      ∧ t.sample x i = v ∧ ∀ j, j ≠ i → t.sample x j = s.sample x j := by
  refine ⟨_, answers_windowWrite1 hb hi hx v, ?_, fun j hj => ?_⟩
  · rw [State.setMem_write_sample, if_pos ⟨rfl, rfl⟩]
  · rw [State.setMem_write_sample, if_neg fun h => hj h.2]

/-- A word written to a window of an idle block: byte `k` goes to index `i + k` (R66). -/
theorem windowWrite4_stores (hb : s.busy = false) (hi : i < s.params.maxSamples) (hx : x ≠ .O) (h4 : i % 4 = 0)
    (v : Word) :
    ∃ t, Answers s ⟨windowRank x * s.params.maxSamples + i, .write4 v⟩ 0 t
      ∧ t.sample x i = v.extractLsb' 0 8 ∧ t.sample x (i + 1) = v.extractLsb' 8 8
      ∧ t.sample x (i + 2) = v.extractLsb' 16 8 ∧ t.sample x (i + 3) = v.extractLsb' 24 8
      ∧ ∀ j, (j < i ∨ i + 3 < j) → t.sample x j = s.sample x j := by
  refine ⟨_, answers_windowWrite4 hb hi h4 hx v, ?_, ?_, ?_, ?_, fun j hj => ?_⟩
  · simp [State.setMem_writeWord_sample]
  · simp [State.setMem_writeWord_sample]
  · simp [State.setMem_writeWord_sample]
  · simp [State.setMem_writeWord_sample]
  · rw [State.setMem_writeWord_sample, if_neg (by omega), if_neg (by omega), if_neg (by omega), if_neg (by omega)]

end Windows

end Interface

/-- Settles O34: a word read of the first four registers meets no case of R64, any other transaction meets one. -/
theorem busyGateRefusesAllButPolling : Obligations.BusyGateRefusesAllButPolling := by
  intro s a hb ha
  refine ⟨fun hread hpoll => ?_, fun hno => ?_⟩
  · obtain ⟨addr, access⟩ := a
    obtain rfl : access = .read4 := hread
    have below : ∀ j ∈ [0x00, 0x04, 0x08, 0x0C], j < 0x10 ∧ j % 4 = 0 := by decide
    obtain ⟨h10, h4⟩ := below addr hpoll
    have hmap : regionOf s.params addr ≠ .unmapped := by
      rw [ne_eq, regionOf_unmapped]
      omega
    exact ⟨_, answers_readWord ha h4 rfl hmap fun _ => h10⟩
  · exact rejects_of_busError ha fun he => hno (pollable_of_busError_none hb he)

/-- Settles O35: the reason is the case of `busError`, and the inversion law of a transaction gives the OKAY. -/
theorem transactionErrorsFollowOrder : Obligations.TransactionErrorsFollowOrder := by
  intro s a ha S reason
  have hreason : s.busError a = reason := s.busError_eq a
  refine ⟨fun e he => rejects_of_busError_eq_some ha (hreason.trans he), fun hnone rest => ?_⟩
  obtain ⟨t, hstep, ht⟩ := hostStep_next (a := a) (s := { s with events := rest }) ha
  obtain ⟨d, hd⟩ := ht.okay (hreason.trans hnone)
  exact ⟨t, d, hstep, ht.events_eq, hd⟩

/-- Settles O40: one read rule and one write rule for each size, at the window's base. -/
theorem windowAccessIsLittleEndian : Obligations.WindowAccessIsLittleEndian := by
  intro s i hb hi
  have rank : ∀ x ∈ [(MemId.A, 1), (.B, 2), (.O, 3)], x.2 = windowRank x.1 := by decide
  have writable : ∀ x ∈ [(MemId.A, 1), (.B, 2)], x.2 = windowRank x.1 ∧ x.1 ≠ .O := by decide
  refine ⟨fun x hx => ?_, fun x hx => ?_⟩
  · rw [rank x hx]
    exact ⟨answers_windowRead1 hb hi, fun h4 => ⟨_, answers_windowRead4 hb hi h4, s.sampleWord_bytes x.1 i⟩⟩
  · obtain ⟨hrank, hO⟩ := writable x hx
    rw [hrank]
    exact ⟨windowWrite1_stores hb hi hO, windowWrite4_stores hb hi hO⟩

/-- Settles O41: a write of a window is an update of its memory, which for A clears `HVALID`. -/
theorem windowWritesTouchOneMemory : Obligations.WindowWritesTouchOneMemory := by
  intro s i v w hb hi
  have hA : 2 ^ s.params.addrW + i = windowRank .A * s.params.maxSamples + i := by rw [windowRank, one_mul]; rfl
  rw [hA]
  exact ⟨⟨_, answers_windowWrite1 (x := .A) hb hi nofun v⟩, ⟨_, answers_windowWrite1 (x := .B) hb hi nofun v⟩,
    fun h4 => ⟨⟨_, answers_windowWrite4 (x := .A) hb hi h4 nofun w⟩, _, answers_windowWrite4 (x := .B) hb hi h4 nofun w⟩⟩

/-- Settles O42: the answer to a read depends on neither the schedule nor the record of responses. -/
theorem readsHaveNoSideEffects : Obligations.ReadsHaveNoSideEffects := by
  intro s a rest hr ha
  obtain ⟨r, hread⟩ := hostStep_of_read hr ha
  exact ⟨r, hread (.host a :: rest) s.responses, hread rest (r :: s.responses)⟩

/-- Settles O43: the first thing a host transaction checks is its offset. -/
theorem offsetsOutsideBlockStop : Obligations.OffsetsOutsideBlockStop := fun s _ rest h =>
  hostStep_outside (s := { s with events := rest }) h

end Sys2Proof.Machine

/-! The encoding (30_encoding.md R90 to R101): the decoder by the fields of a word, the encoder as its inverse, and what
an accepted write of a word to `CMD` does. -/

namespace Sys2Proof

section Decoder

variable {w : Word} {i : Instr}

/-! ### The decoder, line by line (R95) -/

theorem decode_of_reserved (hr : rsv w ≠ 0) : decode w = .illegal .reservedBits := if_pos hr

theorem decode_of_bin (hr : rsv w = 0) (ho : opc w = 0x05) : decode w = .instr (.bin (imm8 w)) := by
  rw [decode, if_neg (not_not.mpr hr), if_pos ho]

theorem decode_of_immediate (hr : rsv w = 0) (ho : opc w ≠ 0x05) (hm : imm8 w ≠ 0) :
    decode w = .illegal .immediate := by
  rw [decode, if_neg (not_not.mpr hr), if_neg ho, if_pos hm]

theorem decode_of_find?_some (hr : rsv w = 0) (ho : opc w ≠ 0x05) (hm : imm8 w = 0)
    (hf : plainCommands.find? (fun i => i.opcode == opc w) = some i) : decode w = .instr i := by
  rw [decode, if_neg (not_not.mpr hr), if_neg ho, if_neg (not_not.mpr hm), hf]

theorem decode_of_find?_none (hr : rsv w = 0) (ho : opc w ≠ 0x05) (hm : imm8 w = 0)
    (hf : plainCommands.find? (fun i => i.opcode == opc w) = none) :
    decode w = .illegal (.reservedOpcode (opc w)) := by
  rw [decode, if_neg (not_not.mpr hr), if_neg ho, if_neg (not_not.mpr hm), hf]

/-! ### The decoder by the fields of a word (R96) -/

/-- A command with no immediate has an opcode of its own, not `BIN`'s, by which the decoder finds it. -/
theorem plainCommands_facts : ∀ i ∈ plainCommands,
    i.immediate = 0 ∧ i.opcode ≠ 0x05 ∧ plainCommands.find? (fun j => j.opcode == i.opcode) = some i := by
  decide

theorem mem_plainCommands (h : ∀ t, i ≠ .bin t) : i ∈ plainCommands := by
  cases i with
  | bin t => exact absurd rfl (h t)
  | _ => decide

theorem decode_of_fields (hr : rsv w = 0) (hm : imm8 w = i.immediate) (ho : opc w = i.opcode) :
    decode w = .instr i := by
  by_cases hi : ∃ t, i = .bin t
  · obtain ⟨t, rfl⟩ := hi
    rw [decode_of_bin hr ho, hm]
    rfl
  · obtain ⟨hzero, hne, hfind⟩ := plainCommands_facts i (mem_plainCommands fun t ht => hi ⟨t, ht⟩)
    exact decode_of_find?_some hr (ho ▸ hne) (hm.trans hzero) (ho ▸ hfind)

/-- A word decodes to a command exactly when its fields are the command's. -/
theorem decode_eq_instr_iff : decode w = .instr i ↔ rsv w = 0 ∧ imm8 w = i.immediate ∧ opc w = i.opcode := by
  refine ⟨fun h => ?_, fun ⟨hr, hm, ho⟩ => decode_of_fields hr hm ho⟩
  simp only [decode] at h
  split_ifs at h with hr ho hm
  · cases h
    exact ⟨not_not.mp hr, rfl, ho⟩
  · rcases hf : plainCommands.find? (fun j => j.opcode == opc w) with _ | j <;> simp only [hf] at h <;> cases h
    obtain ⟨hmem, hop⟩ := find?_plainCommands (opc w) hf
    exact ⟨not_not.mp hr, (not_not.mp hm).trans (plainCommands_facts i hmem).1.symm, hop.symm⟩

theorem decode_eq_instr_iff_eq_encode : decode w = .instr i ↔ w = encode i := by
  rw [decode_eq_instr_iff]
  constructor
  · rintro ⟨hrsv, himm, hop⟩
    rw [eq_cmd32 w, hrsv, himm, hop, encode]
  · rintro rfl
    exact ⟨rsv_cmd32 _ _ _, imm8_cmd32 _ _ _, opc_cmd32 _ _ _⟩

@[simp] theorem decode_encode (i : Instr) : decode (encode i) = .instr i := decode_eq_instr_iff_eq_encode.mpr rfl

/-- `BIN` is every word with its opcode and no reserved bit; its threshold is the immediate (R93). -/
theorem decode_eq_bin_iff {t : Sample} : decode w = .instr (.bin t) ↔ rsv w = 0 ∧ imm8 w = t ∧ opc w = 0x05 :=
  decode_eq_instr_iff

/-- The bits that `BIN`'s row compares: all but those of the threshold (R96). -/
theorem binRow_iff : w &&& 0xFFFF00FF = 0x00000005 ↔ rsv w = 0 ∧ opc w = 0x05 := by
  constructor
  · intro h
    have hrsv := congrArg rsv h
    have hopc := congrArg opc h
    simp only [rsv, opc, BitVec.extractLsb'_and] at hrsv hopc
    rw [show BitVec.extractLsb' 16 16 (0xFFFF00FF : Word) = BitVec.allOnes 16 by decide, BitVec.and_allOnes] at hrsv
    rw [show BitVec.extractLsb' 0 8 (0xFFFF00FF : Word) = BitVec.allOnes 8 by decide, BitVec.and_allOnes] at hopc
    exact ⟨hrsv, hopc⟩
  · rintro ⟨hrsv, hopc⟩
    rw [decode_eq_instr_iff_eq_encode.mp (decode_eq_bin_iff.mpr ⟨hrsv, rfl, hopc⟩)]
    exact (Laws.EncodeFields.bin (imm8 w)).2.2.2.2.1

/-! ### Illegal words (R98, R99) -/

/-- No command but `BIN` has one of the codes of R99, and every other code is a command's. -/
theorem find?_plainCommands_eq_none_iff {op : BitVec 8} (hop : op ≠ 0x05) :
    plainCommands.find? (fun i => i.opcode == op) = none ↔
      op ∈ [(0x00 : BitVec 8), 0x01, 0x02, 0x04, 0x06, 0x07] ∨ 0x13 ≤ op.toNat := by
  simp only [Instr.opcode, BitVec.ofNat_eq_ofNat, plainCommands, List.find?_eq_none, List.mem_cons, List.not_mem_nil,
    or_false, beq_iff_eq, forall_eq_or_imp, forall_eq]
  bv_omega

theorem decode_illegal_iff : (∃ why, decode w = .illegal why) ↔
    rsv w ≠ 0 ∨ (opc w ≠ 0x05 ∧ imm8 w ≠ 0) ∨ opc w ∈ [(0x00 : BitVec 8), 0x01, 0x02, 0x04, 0x06, 0x07]
      ∨ 0x13 ≤ (opc w).toNat := by
  by_cases hr : rsv w = 0
  swap
  · exact iff_of_true ⟨_, decode_of_reserved hr⟩ (.inl hr)
  by_cases ho : opc w = 0x05
  · simp [decode_of_bin hr ho, hr, ho]
  by_cases hm : imm8 w = 0
  swap
  · exact iff_of_true ⟨_, decode_of_immediate hr ho hm⟩ (.inr (.inl ⟨ho, hm⟩))
  rw [← find?_plainCommands_eq_none_iff ho]
  rcases hf : plainCommands.find? (fun i => i.opcode == opc w) with _ | i
  · exact iff_of_true ⟨_, decode_of_find?_none hr ho hm hf⟩ (.inr (.inr hf))
  · rw [hf]
    simp [decode_of_find?_some hr ho hm hf, hr, hm]

end Decoder

/-- Settles O3: the fields of a word decide what it decodes to, and they determine the word. -/
theorem encodeAndDecodeAreInverse : Obligations.EncodeAndDecodeAreInverse := fun _ _ => decode_eq_instr_iff_eq_encode

/-- Settles O2: a row without a threshold has one word, the command's encoding; `BIN`'s row leaves bits 15:8 free. -/
theorem decodeFollowsOpcodeTable : Obligations.DecodeFollowsOpcodeTable := by
  intro w
  refine ⟨fun r hr => ?_, ?_, fun t ht => (decode_eq_bin_iff.mp ht).2.1.symm⟩
  · have henc : encode r.1 = r.2 := by
      revert r
      decide
    rw [decode_eq_instr_iff_eq_encode, henc, show (0xFFFFFFFF : Word) = BitVec.allOnes 32 from rfl, BitVec.and_allOnes]
  · rw [binRow_iff]
    constructor
    · rintro ⟨t, ht⟩
      obtain ⟨hrsv, -, hopc⟩ := decode_eq_bin_iff.mp ht
      exact ⟨hrsv, hopc⟩
    · rintro ⟨hrsv, hopc⟩
      exact ⟨_, decode_eq_bin_iff.mpr ⟨hrsv, rfl, hopc⟩⟩

/-- Settles O1: each word is one the decoder computes on. -/
theorem decodeReadsSpecWords : Obligations.DecodeReadsSpecWords := by
  unfold Obligations.DecodeReadsSpecWords
  decide

end Sys2Proof

namespace Sys2Proof.Machine

section Issue

open Sys2Proof.Statement

variable {s : State} {w : Word}

/-! ### A write of `CMD` while idle (60_exceptions.md R191) -/

theorem hostStep_writeCmd (hb : s.busy = false) (w : Word) :
    hostStep ⟨0x08, .write4 w⟩ s = issueCommand w (s.respond (.okay 0)) := by
  have hS := s.params.maxSamples_ge
  have he : s.busError ⟨0x08, .write4 w⟩ = none :=
    State.busError_eq_none (State.of_idle hb) (by dsimp only; omega) (by simp [Access.size])
      (fun _ => by dsimp only; omega)
  simp only [hostStep, if_neg (show ¬ 4 * s.params.maxSamples ≤ 0x08 by omega), he]
  rfl

theorem issueCommand_of_instr {i : Instr} (h : decode w = .instr i) (s : State) :
    issueCommand w s = exec i (s.latchCommand w) := by
  rw [issueCommand, h]

theorem issueCommand_of_illegal {why : Illegal} (h : decode w = .illegal why) (s : State) :
    issueCommand w s = .next ((s.latchCommand w).raiseCmdError .illegalOp) := by
  rw [issueCommand, h]

theorem answers_illegalCommand {why : Illegal} (hb : s.busy = false) (h : decode w = .illegal why) :
    Answers s ⟨0x08, .write4 w⟩ 0 { s with cmd := w, err := .illegalOp, done := true } := fun rest =>
  (hostStep_writeCmd (s := { s with events := rest }) hb w).trans (issueCommand_of_illegal h _)

/-- The word of a command runs the command, on the state with the word latched. -/
theorem hostStep_command (hb : s.busy = false) (i : Instr) :
    hostStep ⟨0x08, .write4 (encode i)⟩ s = exec i (latched s (encode i)) :=
  (hostStep_writeCmd hb _).trans (issueCommand_of_instr (decode_encode i) _)

end Issue

/-- Settles O4: `decode` meets no case of R98 but these, and an illegal word runs no command. -/
theorem illegalWordsRaiseIllegalOp : Obligations.IllegalWordsRaiseIllegalOp := by
  refine fun w => ⟨decode_illegal_iff, fun s hb ⟨why, h⟩ => ⟨answers_illegalCommand hb h, ?_⟩⟩
  exact answers_readReg (r := .cmd) (by decide) rfl rfl (State.of_idle hb)

/-- Settles O7: `withFetchWord` is a write of `CMD` to the idle block. -/
theorem fetchWordRunsCommand : Obligations.FetchWordRunsCommand := by
  intro s i
  have hlt := (encode i).isLt
  have hword : BitVec.ofNat 32 ((encode i).toNat % 2 ^ 32) = encode i := by
    rw [Nat.mod_eq_of_lt hlt, BitVec.ofNat_toNat, BitVec.setWidth_eq]
  refine ⟨?_, ?_⟩
  · simp only [decodeTableWord, if_pos (Nat.mod_lt _ (Nat.two_pow_pos 32)), hword, decode_encode, Decoded.instr?]
  · rw [State.withFetchWord, hword]
    exact hostStep_command (s := { s with busy := false }) rfl i

end Sys2Proof.Machine

/-! The stencil unit (42_convolution.md R130 to R139): what the eight `CONV` commands store inside the border. -/

namespace Sys2Proof.Machine

section Stencil

open Sys2Proof.Statement

variable {s : State}

/-! ### Grid-producing commands -/

theorem gridOk_of_fits (h : GridFits s) : s.gridOk = true := s.gridOk_iff.mpr h

/-- A completing step that stores a grid leaves the rest of the state alone (10_state.md R30). -/
theorem putGrid_frame (s : State) (pix : Nat → Sample) : GridFrame s (s.putGrid pix).finish :=
  ⟨rfl, fun i hi => (s.putGrid_sample_O pix i).trans (if_neg (Nat.not_lt.mpr hi))⟩

theorem pixelOf_stencils : ∀ r ∈ stencils, r.1 ≠ .hist ∧ pixelOf r.1 = State.convGrid r.2 := by
  simp only [stencils, List.forall_mem_cons, List.not_mem_nil, false_implies, implies_true, and_true]
  refine ⟨?_, ?_, ?_, ?_, ?_, ?_, ?_, ?_⟩ <;> exact ⟨nofun, rfl⟩

/-! ### The value of an interior pixel -/

/-- The sum of R135 over the nine pixels is the model's over the nine neighbours. -/
theorem windowSum_eq_stencilSum (s : State) (K : Kernel) (row col : Nat) :
    windowSum s K row col = stencilSum K (s.sample .A) s.aW.toNat row col := by
  rw [windowSum, stencilSum_eq]
  simp only [Fin.sum_univ_three, ← add_assoc]
  rfl

/-- The three policies, in truncating or flooring division alike (R136 to R138). -/
theorem processed_eq_postInt (K : Kernel) (S : Int) : processed K S = postInt K S := by
  rcases hp : K.policy with _ | _ | _
  · simp only [processed, postInt, hp, tdiv]
  · simp only [processed, postInt, hp, tdiv, Int.natCast_ediv, Int.natCast_natAbs]
  · simp only [processed, postInt, hp]
    split_ifs with hneg
    · rfl
    · rfl
    · exact (tdiv_of_nonneg (not_lt.mp hneg) _).symm

/-- The stored sample of an interior pixel, as an integer: nothing wraps (60_exceptions.md R204). -/
theorem convGrid_interior (q : Fin 8) {row col : Nat} (h : Interior s row col) :
    ((s.convGrid q (row * s.aW.toNat + col)).toNat : Int)
      = processed (s.params.kernel q) (windowSum s (s.params.kernel q) row col) := by
  have ⟨_, _, _, hcol⟩ := h
  rw [State.convGrid, State.stencilAt_interior (by omega) (interior_iff.mpr h), processed_eq_postInt,
    windowSum_eq_stencilSum]
  exact post_toNat (s.params.kernel_wf q) _ _ _ _

end Stencil

/-- Settles O19: the command completes with the grid of its kernel, whose interior samples are the processed sums. -/
theorem stencilStoresProcessedSum : Obligations.StencilStoresProcessedSum := by
  rintro s ⟨hb, hfits⟩ r hr
  obtain ⟨hi, hpix⟩ := pixelOf_stencils r hr
  refine ⟨_, exec_completes_grid hi hb (gridOk_of_fits hfits), putGrid_frame _ _, fun row col hint => ?_⟩
  have hin : row * s.aW.toNat + col < s.gridSize := by
    obtain ⟨-, hrow, -, hcol⟩ := hint
    exact pixel_index_lt (by omega) (by omega)
  have hsample := s.putGrid_sample_O (pixelOf r.1 s) (row * s.aW.toNat + col)
  rw [if_pos hin, hpix] at hsample
  rw [← convGrid_interior r.2 hint, ← hsample, hpix]
  rfl

end Sys2Proof.Machine

/-! Host programs (30_encoding.md R101, R102): turns by the answers the host gets, `WAIT`, lists of reads and of sample
writes. -/

namespace Sys2Proof.Machine

section Programs

open Sys2Proof.Statement

variable {α : Type} {s t u : State} {a : Transaction} {d : Word} {x : MemId}

/-- The block as in `s`, nothing scheduled, when the host has received `rs`. -/
abbrev State.after (s : State) (rs : List Response) : State := { s with events := [], responses := rs }

/-! ### Turns (20_memory.md R73) -/

theorem turn_perform_of_answers {next : Response → HostProgram α} (h : Answers s a d t) :
    (HostProgram.perform a next).turn s .host = .next (next ⟨none, d⟩, t.after (⟨none, d⟩ :: s.responses)) :=
  turn_perform (h [])

theorem turn_wait_by_busy (next : HostProgram α) (s : State) :
    (HostProgram.wait next).turn s .host = .next (if s.busy = true then .wait next else next,
      s.after (⟨none, s.statusWord⟩ :: s.responses)) := by
  have hstatus : Answers s ⟨0x0C, .read4⟩ s.statusWord s :=
    answers_readReg (r := .status) (by decide) rfl rfl (fun _ => by decide)
  obtain ⟨hbusy, -⟩ := s.statusWord_fields
  simpa only [State.newestResponse, List.headD_cons, hbusy] using turn_wait (next := next) (hstatus [])

/-- While the block is busy, `WAIT` stays where it is, however often it polls. -/
theorem run_wait_busy (next : HostProgram α) (hb : s.busy = true) (polls : Nat) (rs : List Response) :
    ∃ rs', HostProgram.run (List.replicate polls .host) (.wait next) (s.after rs)
      = .next (.wait next, s.after rs') := by
  induction polls generalizing rs with
  | zero => exact ⟨rs, rfl⟩
  | succ n ih =>
    have hturn := turn_wait_by_busy next (s.after rs)
    rw [if_pos hb] at hturn
    obtain ⟨rs', hrun⟩ := ih (⟨none, (s.after rs).statusWord⟩ :: rs)
    exact ⟨rs', by rw [List.replicate_succ, run_cons hturn]; exact hrun⟩

/-! ### Lists of reads -/

theorem windowOffset_eq (p : Params) (x : MemId) (i : Nat) : windowOffset p x i = windowRank x * p.maxSamples + i := by
  cases x <;> simp [windowOffset, windowRank]

/-- The data with which the block in state `s` answers `a`. -/
def State.answer (s : State) (a : Transaction) : Word :=
  match hostStep a (s.after []) with
  | .next t => t.newestResponse.data
  | _ => 0

theorem State.answer_of_answers (h : Answers (s.after []) a d t) : s.answer a = d := by
  have hstep : hostStep a (s.after []) = .next (t.after [⟨none, d⟩]) := h []
  rw [State.answer, hstep]
  rfl

/-- Reads answered OKAY: the data in order go on to `f`, and only the record of responses changes. -/
theorem run_reads {n : Nat} {read : Nat → Transaction} {data : Nat → Word}
    (h : ∀ i < n, ∀ rs, Answers (s.after rs) (read i) (data i) (s.after rs)) (f : List Word → HostProgram α)
    (rs : List Response) :
    ∃ rs', HostProgram.run (List.replicate n .host) ((readAll ((List.range n).map read)).bind f) (s.after rs)
      = .next (f ((List.range n).map data), s.after rs') := by
  have hanswer : ∀ i ∈ List.range n, s.answer (read i) = data i := fun i hi =>
    State.answer_of_answers (h i (List.mem_range.mp hi) [])
  have hdata : ((List.range n).map read).map s.answer = (List.range n).map data := by
    rw [List.map_map]
    exact List.map_congr_left hanswer
  have hreads := run_readAll s s.answer ((List.range n).map read) (fun b hb rs => ?_) f rs
  · rwa [List.length_map, List.length_range, hdata] at hreads
  · obtain ⟨i, hi, rfl⟩ := List.mem_map.mp hb
    rw [hanswer i hi]
    exact h i (List.mem_range.mp hi) rs []

/-- Byte reads of the first `n` indices of a window give the samples. -/
theorem run_readWindow (hb : s.busy = false) (x : MemId) {n : Nat} (hn : n ≤ s.params.maxSamples)
    (f : List Word → HostProgram α) (rs : List Response) :
    ∃ rs', HostProgram.run (List.replicate n .host)
        ((readAll ((List.range n).map (fun i => ⟨windowOffset s.params x i, .read1⟩))).bind f) (s.after rs)
      = .next (f ((List.range n).map (fun i => BitVec.ofNat 32 (s.sample x i).toNat)), s.after rs') := by
  refine run_reads (fun i hi rs => ?_) f rs
  rw [windowOffset_eq]
  exact answers_windowRead1 (s := s.after rs) hb (lt_of_lt_of_le hi hn)

/-- The reads of `HIST+0` to `HIST+255` give the bins. -/
theorem run_binReads (hb : s.busy = false) (f : List Word → HostProgram α) (rs : List Response) :
    ∃ rs', HostProgram.run (List.replicate 256 .host) ((readAll binReads).bind f) (s.after rs)
      = .next (f ((List.range 256).map (fun k => s.bin (BitVec.ofNat 8 k))), s.after rs') := by
  refine run_reads (fun k hk rs => ?_) f rs
  have hoffset : histOffset k = 0x400 + 4 * (BitVec.ofNat 8 k).toNat := by
    rw [BitVec.toNat_ofNat, Nat.mod_eq_of_lt hk, histOffset]
  rw [hoffset]
  exact answers_readBin (s := s.after rs) hb (BitVec.ofNat 8 k)

/-! ### Lists of sample writes -/

/-- Memory `x` can be loaded: the block is idle with nothing scheduled, the host may write `x`, and where a write of `x`
clears `HVALID` (10_state.md R35) it is clear. -/
structure Loadable (x : MemId) (s : State) : Prop where
  idle : s.busy = false
  writable : x ≠ .O
  quiet : s.events = []
  stale : x = .A → s.hvalid = false

/-- From `s` to `t` the samples `l` were written to memory `x` from index `i` on, and nothing else changed. -/
structure Placed (x : MemId) (i : Nat) (l : List Sample) (s t : State) : Prop where
  frame : t = (s.setMem x (t.mem x)).after t.responses
  inside : ∀ k (hk : k < l.length), t.sample x (i + k) = l[k]
  outside : ∀ j, j < i ∨ i + l.length ≤ j → t.sample x j = s.sample x j

/-- The writes `ts` put the samples `l` into memory `x` from index `i` on. -/
def Loads (p : Params) (x : MemId) (i : Nat) (l : List Sample) (ts : List Transaction) : Prop :=
  ∀ s : State, s.params = p → Loadable x s →
    ∃ t, HostProgram.run (List.replicate ts.length .host) (performAll ts) s = .next (.ret (), t) ∧ Placed x i l s t

/-- The write `a` puts the samples `l` into memory `x` from index `i` on. -/
def Stores (p : Params) (x : MemId) (i : Nat) (l : List Sample) (a : Transaction) : Prop :=
  ∀ s : State, s.params = p → Loadable x s → ∃ t, hostStep a { s with events := [] } = .next t ∧ Placed x i l s t

theorem Placed.params_eq {i : Nat} {l : List Sample} (h : Placed x i l s t) : t.params = s.params := by
  rw [h.frame, State.setMem_params]

theorem Placed.loadable {i : Nat} {l : List Sample} (h : Placed x i l s t) (hs : Loadable x s) : Loadable x t where
  idle := by rw [h.frame, State.setMem_busy, hs.idle]
  writable := hs.writable
  quiet := by rw [h.frame]
  stale hx := by rw [h.frame, State.setMem_hvalid, if_pos hx]

theorem Placed.nil (i : Nat) (hs : Loadable x s) : Placed x i [] s s where
  frame := by
    obtain ⟨-, hx, hquiet, hstale⟩ := hs
    cases s
    cases hquiet
    cases x with
    | A =>
      cases hstale rfl
      rfl
    | B => rfl
    | O => exact absurd rfl hx
  inside := nofun
  outside _ _ := rfl

theorem Placed.append {i : Nat} {l m : List Sample} (h : Placed x i l s t) (h' : Placed x (i + l.length) m t u) :
    Placed x i (l ++ m) s u where
  frame := by
    rw [h'.frame, h.frame]
    cases x <;> rfl
  inside k hk := by
    rcases Nat.lt_or_ge k l.length with hl | hl
    · rw [List.getElem_append_left hl, h'.outside _ (.inl (by omega)), h.inside k hl]
    · have hm : k - l.length < m.length := by
        rw [List.length_append] at hk
        omega
      rw [List.getElem_append_right hl, ← h'.inside _ hm]
      congr 1
      omega
  outside j hj := by
    rw [List.length_append] at hj
    rw [h'.outside j (by omega), h.outside j (by omega)]

theorem Loads.nil (p : Params) (x : MemId) (i : Nat) : Loads p x i [] [] := fun s _ hs => ⟨s, rfl, .nil i hs⟩

theorem Stores.cons {p : Params} {i : Nat} {l m : List Sample} {ts : List Transaction} (ha : Stores p x i l a)
    (hts : Loads p x (i + l.length) m ts) : Loads p x i (l ++ m) (a :: ts) := by
  intro s hp hs
  obtain ⟨t, hstep, hl⟩ := ha s hp hs
  obtain ⟨u, hrun, hm⟩ := hts t (hl.params_eq.trans hp) (hl.loadable hs)
  exact ⟨u, run_performAll_cons hstep hrun, hl.append hm⟩

/-- `WR1 x+i, v` -/
theorem stores_byte (p : Params) (x : MemId) {i : Nat} (hi : i < p.maxSamples) (v : Sample) :
    Stores p x i [v] ⟨windowOffset p x 0 + i, .write1 v⟩ := by
  rintro s rfl hs
  rw [windowOffset_eq, Nat.add_zero]
  refine ⟨_, answers_windowWrite1 hs.idle hi hs.writable v [], ?_, fun k hk => ?_, fun j hj => ?_⟩
  · cases x <;> rfl
  · obtain rfl : k = 0 := by simpa using hk
    exact (s.setMem_write_sample x x i i v).trans (if_pos ⟨rfl, rfl⟩)
  · rw [List.length_singleton] at hj
    exact (s.setMem_write_sample x x i j v).trans (if_neg (by omega))

/-- The four bytes of a packed word (20_memory.md R66). -/
theorem bytes_of_packed (a b c d : Sample) :
    (d ++ c ++ b ++ a : BitVec 32).extractLsb' 0 8 = a ∧ (d ++ c ++ b ++ a : BitVec 32).extractLsb' 8 8 = b
      ∧ (d ++ c ++ b ++ a : BitVec 32).extractLsb' 16 8 = c ∧ (d ++ c ++ b ++ a : BitVec 32).extractLsb' 24 8 = d := by
  refine ⟨?_, ?_, ?_, ?_⟩
  · rw [BitVec.extractLsb'_append_eq_right]
  · rw [BitVec.extractLsb'_append_eq_of_le (by decide), BitVec.extractLsb'_append_eq_right]
  · rw [BitVec.extractLsb'_append_eq_of_le (by decide), BitVec.extractLsb'_append_eq_of_le (by decide),
      BitVec.extractLsb'_append_eq_right]
  · rw [BitVec.extractLsb'_append_eq_of_le (by decide), BitVec.extractLsb'_append_eq_of_le (by decide),
      BitVec.extractLsb'_append_eq_left]

/-- `WR4 x+i` of four samples packed, byte `k` at index `i + k` (20_memory.md R66) -/
theorem stores_word (p : Params) (x : MemId) {i : Nat} (h4 : i % 4 = 0) (hi : i < p.maxSamples) (a b c d : Sample) :
    Stores p x i [a, b, c, d] ⟨windowOffset p x 0 + i, .write4 (d ++ c ++ b ++ a : BitVec 32)⟩ := by
  rintro s rfl hs
  rw [windowOffset_eq, Nat.add_zero]
  obtain ⟨h0, h1, h2, h3⟩ := bytes_of_packed a b c d
  have hsample := fun j => s.setMem_writeWord_sample x i j (d ++ c ++ b ++ a : BitVec 32)
  simp only [h0, h1, h2, h3] at hsample
  refine ⟨_, answers_windowWrite4 hs.idle hi h4 hs.writable _ [], ?_, fun k hk => ?_, fun j hj => ?_⟩
  · cases x <;> rfl
  · refine (hsample (i + k)).trans ?_
    simp only [List.length_cons, List.length_nil] at hk
    interval_cases k <;> simp
  · simp only [List.length_cons, List.length_nil] at hj
    refine (hsample j).trans ?_
    rw [if_neg (by omega), if_neg (by omega), if_neg (by omega), if_neg (by omega)]

theorem Loads.byte {p : Params} {i : Nat} {l : List Sample} {ts : List Transaction} (v : Sample)
    (h : Loads p x (i + 1) l ts) (hi : i < p.maxSamples) :
    Loads p x i (v :: l) (⟨windowOffset p x 0 + i, .write1 v⟩ :: ts) := (stores_byte p x hi v).cons h

/-- The writes of `LOADA` and `LOADB`, four samples at a time, packed or not. -/
theorem loads_loadWrites (p : Params) (x : MemId) (packed : Nat → Bool) (i : Nat) (l : List Sample) (h4 : i % 4 = 0)
    (hn : i + l.length ≤ p.maxSamples) : Loads p x i l (loadWrites (windowOffset p x 0) packed i l) := by
  induction i, l using loadWrites.induct packed with
  | case1 i a b c d l hp ih =>
    simp only [List.length_cons] at hn
    rw [loadWrites, if_pos hp]
    exact (stores_word p x h4 (by omega) a b c d).cons (ih (by omega) (by omega))
  | case2 i a b c d l hp ih =>
    simp only [List.length_cons] at hn
    rw [loadWrites, if_neg hp]
    exact ((((ih (by omega) (by omega)).byte d (by omega)).byte c (by omega)).byte b (by omega)).byte a (by omega)
  | case3 i a b c =>
    simp only [List.length_cons] at hn
    exact (((Loads.nil p x _).byte c (by omega)).byte b (by omega)).byte a (by omega)
  | case4 i a b =>
    simp only [List.length_cons] at hn
    exact ((Loads.nil p x _).byte b (by omega)).byte a (by omega)
  | case5 i a =>
    simp only [List.length_cons] at hn
    exact (Loads.nil p x _).byte a (by omega)
  | case6 i => exact .nil p x i

/-! ### LOADA, LOADB, READO (R102) -/

theorem dimOf_of_lt {p : Params} {v : Word} (h : v.toNat < 2 ^ p.dimW) : dimOf p v = BitVec.ofNat 16 v.toNat := by
  rw [dimOf, Nat.mod_eq_of_lt h]

/-- Two writes that leave memory `x` loadable, then the sample writes from index 0 on. -/
theorem run_load {b : Transaction} {l : List Sample} (packed : Nat → Bool) (ha : Answers s a 0 t)
    (hb : Answers (t.after (⟨none, 0⟩ :: s.responses)) b 0 u) (hu : Loadable x (u.after []))
    (hn : l.length ≤ u.params.maxSamples) :
    ∃ n rs v, HostProgram.run (List.replicate n .host)
          (performAll (a :: b :: loadWrites (windowOffset u.params x 0) packed 0 l)) s = .next (.ret (), v)
      ∧ Placed x 0 l (u.after rs) v := by
  obtain ⟨hidle, hx, -, hstale⟩ := hu
  obtain ⟨v, hrun, hv⟩ := loads_loadWrites u.params x packed 0 l rfl (by omega)
    (u.after (⟨none, 0⟩ :: ⟨none, 0⟩ :: s.responses)) rfl ⟨hidle, hx, rfl, hstale⟩
  exact ⟨_, _, v, run_performAll_cons (ha []) (run_performAll_cons (hb []) hrun), hv⟩

/-- A program's list of samples in place, by index. -/
theorem Placed.vector {n : Nat} {v : Vector Sample n} (h : Placed x 0 v.toList s t) :
    (∀ i (hi : i < n), t.sample x i = v[i]) ∧ ∀ i, n ≤ i → t.sample x i = s.sample x i := by
  refine ⟨fun i hi => ?_, fun i hi => h.outside i (.inr (by simpa using hi))⟩
  have hin := h.inside i (by simpa using hi)
  rwa [Nat.zero_add, Vector.getElem_toList] at hin

section Load

variable {packed : Nat → Bool} {w h : Word} {v : Vector Sample (w.toNat * h.toNat)} (hb : s.busy = false)
  (hw : w.toNat < 2 ^ s.params.dimW) (hh : h.toNat < 2 ^ s.params.dimW)
  (hn : w.toNat * h.toNat ≤ s.params.maxSamples)

include hb hw hh hn

theorem run_loadA : ∃ n t, (loadA s.params packed w h v).run (List.replicate n .host) s = .next (.ret (), t)
    ∧ t = { s with aW := BitVec.ofNat 16 w.toNat, aH := BitVec.ofNat 16 h.toNat, memA := t.memA, hvalid := false,
                   events := [], responses := t.responses }
    ∧ (∀ i (hi : i < w.toNat * h.toNat), t.sample .A i = v[i])
    ∧ ∀ i, w.toNat * h.toNat ≤ i → t.sample .A i = s.sample .A i := by
  rw [← dimOf_of_lt hw, ← dimOf_of_lt hh]
  obtain ⟨n, rs, t, hrun, ht⟩ := run_load packed
    (answers_writeReg (addr := 0x10) (r := .aW) (v := w) hb (by decide) (by decide) rfl rfl nofun)
    (answers_writeReg (addr := 0x14) (r := .aH) (v := h) hb (by decide) (by decide) rfl rfl nofun)
    (x := .A) (l := v.toList) ⟨hb, nofun, rfl, fun _ => rfl⟩ (by rw [Vector.length_toList]; exact hn)
  exact ⟨n, t, hrun, ht.frame, ht.vector⟩

theorem run_loadB : ∃ n t, (loadB s.params packed w h v).run (List.replicate n .host) s = .next (.ret (), t)
    ∧ t = { s with bW := BitVec.ofNat 16 w.toNat, bH := BitVec.ofNat 16 h.toNat, memB := t.memB,
                   events := [], responses := t.responses }
    ∧ (∀ i (hi : i < w.toNat * h.toNat), t.sample .B i = v[i])
    ∧ ∀ i, w.toNat * h.toNat ≤ i → t.sample .B i = s.sample .B i := by
  rw [← dimOf_of_lt hw, ← dimOf_of_lt hh]
  obtain ⟨n, rs, t, hrun, ht⟩ := run_load packed
    (answers_writeReg (addr := 0x18) (r := .bW) (v := w) hb (by decide) (by decide) rfl rfl nofun)
    (answers_writeReg (addr := 0x1C) (r := .bH) (v := h) hb (by decide) (by decide) rfl rfl nofun)
    (x := .B) (l := v.toList) ⟨hb, nofun, rfl, nofun⟩ (by rw [Vector.length_toList]; exact hn)
  exact ⟨n, t, hrun, ht.frame, ht.vector⟩

end Load

theorem run_readO (hb : s.busy = false) (hn : s.oW.toNat * s.oH.toNat ≤ s.params.maxSamples) :
    ∃ rs, (readO s.params).run (List.replicate (2 + s.oW.toNat * s.oH.toNat) .host) s
      = .next (.ret (BitVec.ofNat 32 s.oW.toNat, BitVec.ofNat 32 s.oH.toNat,
          (List.range (s.oW.toNat * s.oH.toNat)).map (s.sample .O)), s.after rs) := by
  have hwidth : Answers s ⟨0x20, .read4⟩ (s.oW.setWidth 32) s :=
    answers_readReg (r := .oW) (by decide) rfl rfl (State.of_idle hb)
  have hheight : Answers (s.after (⟨none, s.oW.setWidth 32⟩ :: s.responses)) ⟨0x24, .read4⟩ (s.oH.setWidth 32) _ :=
    answers_readReg (r := .oH) (by decide) rfl rfl (State.of_idle hb)
  have hdim : ∀ d : Dim, (d.setWidth 32).toNat = d.toNat := fun d => BitVec.toNat_setWidth_of_le (by decide)
  rw [List.replicate_add, List.replicate_succ, List.replicate_one, List.cons_append, readO,
    run_cons (turn_perform_of_answers hwidth), List.singleton_append, run_cons (turn_perform_of_answers hheight)]
  dsimp only
  rw [hdim, hdim]
  obtain ⟨rs, hrun⟩ := run_readWindow hb .O hn _ _
  have hbyte : ∀ v : Sample, (v.setWidth 32).extractLsb' 0 8 = v := fun v => by
    simp [BitVec.extractLsb'_setWidth_of_le]
  refine ⟨rs, hrun.trans ?_⟩
  simp only [List.map_map, Function.comp_def, hbyte, BitVec.ofNat_toNat]

end Programs

/-- Settles O57: `WAIT` by the `BUSY` bit of `STATUS`, the loads by their writes one after another, `READO` by its
reads. -/
theorem waitLoadAndReadoDoAsTheyExpand : Obligations.WaitLoadAndReadoDoAsTheyExpand := by
  refine ⟨fun s k => ?_, fun s packed w h v hb hw hh hn => ⟨run_loadA hb hw hh hn, run_loadB hb hw hh hn⟩,
    fun s hb hn => ?_⟩
  · obtain ⟨hbusy, -⟩ := s.statusWord_fields
    exact ⟨s.statusWord, hbusy, run_cons (turn_wait_by_busy k s) []⟩
  · obtain ⟨rs, hrun⟩ := run_readO hb hn
    exact ⟨_, hrun, rfl⟩

end Sys2Proof.Machine

/-! Host programs that issue commands (30_encoding.md R102): a command and its `WAIT`, what the host reads after `HIST`,
and the threshold of Gonzalez-Binarization (48_reference_functions.md R177 to R179). -/

namespace Sys2Proof.Machine

section Commands

open Sys2Proof.Statement

variable {α : Type} {s t : State} {i : Instr}

/-! ### A command and its WAIT (60_exceptions.md R191, R193) -/

/-- The state that the acceptance of a `CMD` write of `i` leaves. -/
def State.issued (i : Instr) (s : State) : State :=
  { latched s (encode i) with busy := true, hvalid := if i = .hist then false else s.hvalid }

theorem hostStep_command_accepted (hb : s.busy = false) (hg : s.gridOk = true) (hi : i ≠ .max) :
    hostStep ⟨0x08, .write4 (encode i)⟩ s = .next (s.issued i) := by
  have hg' : (latched s (encode i)).gridOk = true := hg
  rw [hostStep_command hb, exec_idle (s := latched s (encode i)) hb, if_pos hg', if_neg fun h => hi h.1,
    State.accept_eq]
  rfl

theorem engineStep_command (hb : s.busy = true) (hd : decode s.cmd = .instr i) : engineStep s = exec i s := by
  simp only [engineStep, if_pos hb, hd]

theorem Completed.idle (h : Completed i s t) : t.busy = false := by
  cases h <;> rfl

/-- The turns of one command: the host's `CMD` write, `polls` reads by its `WAIT`, the engine's turn, the read that ends
the `WAIT`, and then `cs`. -/
abbrev commandTurns (polls : Nat) (cs : List Turn) : List Turn :=
  Turn.host :: (List.replicate polls Turn.host ++ Turn.engine :: Turn.host :: cs)

/-- From its `CMD` write through any number of polls and the engine's turn to the `WAIT` that goes on, a command that
reads grid A only completes. -/
theorem run_command (next : HostProgram α) (hb : s.busy = false) (hg : s.gridOk = true) (hi : i ≠ .max) (polls : Nat)
    (cs : List Turn) :
    ∃ rs t rs', Completed i ((s.issued i).after rs) t
      ∧ HostProgram.run (commandTurns polls cs) (issue i (.wait next)) s
        = HostProgram.run cs next (t.after rs') := by
  have hissue : (issue i (.wait next)).turn s .host = .next (.wait next, (s.issued i).after (s.issued i).responses) :=
    turn_perform (hostStep_command_accepted (s := { s with events := [] }) hb hg hi)
  obtain ⟨rs, hpolls⟩ := run_wait_busy next (s := s.issued i) rfl polls (s.issued i).responses
  obtain ⟨t, hexec⟩ := exec_completes (i := i) (s := (s.issued i).after rs) rfl hg
  have hengine : step { (s.issued i).after rs with events := [.engine] } = .next t :=
    (engineStep_command (s := (s.issued i).after rs) rfl (decode_encode i)).trans hexec
  have hc := exec_busy_next rfl hexec
  have hwait := turn_wait_by_busy next t
  rw [hc.idle, if_neg Bool.false_ne_true] at hwait
  exact ⟨rs, t, _, hc, by
    rw [run_cons hissue, run_append hpolls, run_cons (turn_engine hengine), run_cons hwait]⟩

/-! ### HIST (40_histogram.md R111, R112) -/

/-- `low` and `high` are the least and the greatest intensity that occurs in the grid. -/
structure GridBounds (grid : List Sample) (low high : Sample) : Prop where
  low_mem : low ∈ grid
  high_mem : high ∈ grid
  least : ∀ k ∈ grid, low.toNat ≤ k.toNat
  greatest : ∀ k ∈ grid, k.toNat ≤ high.toNat

/-- The block as in `s` after `HIST` has run, with the bounds it found. -/
def State.counted (low high : Sample) (s : State) : State :=
  { s with cmd := 0x00000003, done := true, err := .none, hvalid := true,
           bins := buildBins s.params.cntW s.gridSamples, low := low, high := high }

theorem run_hist (next : HostProgram α) (hb : s.busy = false) (hg : s.gridOk = true) (polls : Nat) (cs : List Turn) :
    ∃ low high rs, GridBounds s.gridSamples low high
      ∧ HostProgram.run (commandTurns polls cs) (issue .hist (.wait next)) s
        = HostProgram.run cs next ((s.counted low high).after rs) := by
  obtain ⟨rs, t, rs', hc, hrun⟩ := run_command (i := .hist) next hb hg nofun polls cs
  cases hc with
  | grid hi => exact absurd rfl hi
  | hist _ _ low high hl hh least greatest =>
    refine ⟨low, high, rs', ⟨hl, hh, least, greatest⟩, hrun.trans (congrArg _ ?_)⟩
    cases s
    cases hb
    rfl

theorem counted_bin (hg : s.gridOk = true) (low high k : Sample) :
    ((s.counted low high).bin k).toNat = s.gridSamples.count k := binOf_buildBins_grid hg k

theorem count_gridSamples (s : State) (k : Sample) :
    s.gridSamples.count k = (List.range (size s)).countP (fun i => decide (s.sample .A i = k)) :=
  List.countP_map

theorem mem_gridSamples {k : Sample} : k ∈ s.gridSamples ↔ ∃ i, i < size s ∧ s.sample .A i = k := by
  simp only [State.gridSamples, List.mem_map, List.mem_range]
  rfl

/-! ### BIN (41_binarization.md R121) -/

/-- The block as in `s` after `BIN #T` has run. -/
def State.binarized (T : Sample) (s : State) : State :=
  State.putGrid (fun i => binLut T (s.sample .A i)) { s with cmd := encode (.bin T), done := true, err := .none }

theorem run_bin (T : Sample) (next : HostProgram α) (hb : s.busy = false) (hg : s.gridOk = true) (polls : Nat)
    (cs : List Turn) :
    ∃ rs, HostProgram.run (commandTurns polls cs) (issue (.bin T) (.wait next)) s
        = HostProgram.run cs next ((s.binarized T).after rs) := by
  obtain ⟨rs, t, rs', hc, hrun⟩ := run_command (i := .bin T) next hb hg nofun polls cs
  cases hc with
  | hist hi => cases hi
  | grid =>
    refine ⟨rs', hrun.trans (congrArg _ ?_)⟩
    cases s
    cases hb
    rfl

theorem binarized_sample (T : Sample) (s : State) (i : Nat) :
    (s.binarized T).sample .O i = if i < size s then binLut T (s.sample .A i) else s.sample .O i :=
  State.putGrid_sample_O _ _ i

end Commands

/-! ### The Gonzalez estimator (48_reference_functions.md R178) -/

section Gonzalez

variable {H : Nat → Nat} {low high : Nat} {grid : List Sample} {l h : Sample}

theorem groupMean_le (H : Nat → Nat) (lo hi : Nat) : groupMean H lo hi ≤ hi := by
  have hsum : ((intensityRange lo hi).map (fun k => k * H k)).sum ≤ hi * ((intensityRange lo hi).map H).sum := by
    rw [← List.sum_map_mul_left]
    refine List.sum_le_sum fun k hk => Nat.mul_le_mul_right _ ?_
    simp only [intensityRange, List.mem_filter, List.mem_range] at hk
    omega
  exact Nat.div_le_of_le_mul ((hsum.trans (Nat.mul_le_mul_left hi (le_max_left _ 1))).trans_eq (Nat.mul_comm _ _))

theorem gonzalezStep_le {t n : Nat} (ht : t ≤ n) (hh : high ≤ n) : gonzalezStep H low high t ≤ n := by
  have h1 := groupMean_le H low t
  have h2 := groupMean_le H (t + 1) high
  rw [gonzalezStep]
  omega

theorem gonzalezLoop_le {n : Nat} (hh : high ≤ n) (passes : Nat) {t : Nat} (ht : t ≤ n) :
    gonzalezLoop H low high passes t ≤ n := by
  induction passes generalizing t with
  | zero => exact ht
  | succ m ih =>
    have hstep : gonzalezStep H low high t ≤ n := gonzalezStep_le ht hh
    simp only [gonzalezLoop]
    split_ifs
    · exact hstep
    · exact ih hstep

/-- The threshold never exceeds a bound of `Low` and `High`. -/
theorem gonzalez_le {n : Nat} (hl : low ≤ n) (hh : high ≤ n) : gonzalez H low high ≤ n := by
  rw [gonzalez]
  split_ifs
  · exact hl
  · exact gonzalezLoop_le hh 256 (by omega)

/-! ### The histogram of a grid (R179) -/

theorem gridHistogram_toNat (grid : List Sample) (k : Sample) : gridHistogram grid k.toNat = grid.count k :=
  List.countP_congr fun v _ => by simp [BitVec.toNat_inj]

theorem gridHistogram_of_ge (grid : List Sample) {k : Nat} (hk : 256 ≤ k) : gridHistogram grid k = 0 := by
  refine List.countP_eq_zero.mpr fun v _ => ?_
  have := v.isLt
  rw [decide_eq_true_eq]
  omega

theorem gridHistogram_ne_zero {k : Nat} : gridHistogram grid k ≠ 0 ↔ ∃ v ∈ grid, v.toNat = k := by
  rw [← Nat.pos_iff_ne_zero, gridHistogram, List.countP_pos_iff]
  simp

/-- The first intensity that occurs, in a search order in which none comes before it, is found. -/
theorem find?_intensity {R : Nat → Nat → Prop} {order : List Nat} (hR : order.Pairwise R) (hall : ∀ k < 256, k ∈ order)
    (hl : l ∈ grid) (hfirst : ∀ v ∈ grid, ¬ R v.toNat l.toNat) :
    order.find? (fun k => gridHistogram grid k != 0) = some l.toNat := by
  have hmem := hall l.toNat l.isLt
  have hhit : (gridHistogram grid l.toNat != 0) = true := bne_iff_ne.mpr (gridHistogram_ne_zero.mpr ⟨l, hl, rfl⟩)
  obtain ⟨k, hk⟩ : ∃ k, order.find? (fun k => gridHistogram grid k != 0) = some k :=
    Option.isSome_iff_exists.mp (List.find?_isSome.mpr ⟨l.toNat, hmem, hhit⟩)
  have hocc : (gridHistogram grid k != 0) = true := List.find?_some (p := fun k => gridHistogram grid k != 0) hk
  obtain ⟨v, hv, rfl⟩ := gridHistogram_ne_zero.mp (bne_iff_ne.mp hocc)
  rcases find?_first hR hk hmem hhit with he | hR
  · rw [hk, he]
  · exact absurd hR (hfirst v hv)

theorem GridBounds.gridLow_eq (hb : GridBounds grid l h) : gridLow grid = l.toNat := by
  rw [gridLow, find?_intensity List.pairwise_lt_range (fun k hk => List.mem_range.mpr hk) hb.low_mem
    fun v hv => Nat.not_lt.mpr (hb.least v hv), Option.getD_some]

theorem GridBounds.gridHigh_eq (hb : GridBounds grid l h) : gridHigh grid = h.toNat := by
  rw [gridHigh, find?_intensity (List.pairwise_reverse.mpr List.pairwise_lt_range)
    (fun k hk => List.mem_reverse.mpr (List.mem_range.mpr hk)) hb.high_mem
    fun v hv => Nat.not_lt.mpr (hb.greatest v hv), Option.getD_some]

theorem GridBounds.gridThreshold_toNat (hb : GridBounds grid l h) :
    (gridThreshold grid).toNat = gonzalez (gridHistogram grid) l.toNat h.toNat := by
  have hle : gonzalez (gridHistogram grid) l.toNat h.toNat ≤ 255 :=
    gonzalez_le (Nat.le_of_lt_succ l.isLt) (Nat.le_of_lt_succ h.isLt)
  rw [gridThreshold, hb.gridLow_eq, hb.gridHigh_eq, BitVec.toNat_ofNat, Nat.mod_eq_of_lt (by omega)]

end Gonzalez

section Reports

open Sys2Proof.Statement

variable {s : State} {low high : Sample}

theorem gridHistogram_gridSamples (s : State) :
    gridHistogram s.gridSamples
      = fun k => (List.range (size s)).countP (fun i => decide ((s.sample .A i).toNat = k)) :=
  funext fun _ => List.countP_map

/-- The bins the host has read are the histogram of grid A. -/
theorem getD_bins (hg : s.gridOk = true) (low high : Sample) (k : Nat) :
    (((List.range 256).map (fun k => (s.counted low high).bin (BitVec.ofNat 8 k))).getD k 0).toNat
      = gridHistogram s.gridSamples k := by
  by_cases hk : k < 256
  · have hnat : (BitVec.ofNat 8 k).toNat = k := by rw [BitVec.toNat_ofNat, Nat.mod_eq_of_lt hk]
    rw [List.getD_eq_getElem _ _ (by simpa using hk), List.getElem_map, List.getElem_range, counted_bin hg,
      ← gridHistogram_toNat, hnat]
  · rw [gridHistogram_of_ge _ (Nat.not_lt.mp hk), List.getD_eq_default _ _ (by simpa using hk)]
    rfl

/-- The threshold computed from what the host has read is that of the grid. -/
theorem thresholdOf_counted (hg : s.gridOk = true) (hb : GridBounds s.gridSamples low high) :
    thresholdOf (low.setWidth 32) (high.setWidth 32)
      ((List.range 256).map (fun k => (s.counted low high).bin (BitVec.ofNat 8 k))) = gridThreshold s.gridSamples := by
  have hwidth : ∀ v : Sample, (v.setWidth 32).toNat = v.toNat := fun v => BitVec.toNat_setWidth_of_le (by decide)
  rw [thresholdOf, gridThreshold, hb.gridLow_eq, hb.gridHigh_eq, hwidth, hwidth, funext (getD_bins hg low high)]

/-! ### HISTDUMP, GBIN (R102, R179) -/

theorem run_histDump (hb : s.busy = false) (hg : s.gridOk = true) (polls : Nat) :
    ∃ low high rs, histDump.run (commandTurns polls (List.replicate 256 .host)) s
      = .next (.ret ((List.range 256).map (fun k => (k, (s.counted low high).bin (BitVec.ofNat 8 k)))),
          (s.counted low high).after rs) := by
  obtain ⟨low, high, rs, -, hhist⟩ := run_hist _ hb hg polls (List.replicate 256 .host)
  obtain ⟨rs', hbins⟩ := run_binReads (s := s.counted low high) hb _ rs
  refine ⟨low, high, rs', hhist.trans (hbins.trans ?_)⟩
  rw [List.map_prod_left_eq_zip]

/-- `HIST`, the reads of its results, and `BIN` with the threshold computed from them. -/
theorem run_gbin (hb : s.busy = false) (hg : s.gridOk = true) (polls polls' : Nat) :
    ∃ low high rs, GridBounds s.gridSamples low high
      ∧ gbin.run (commandTurns polls
          (Turn.host :: Turn.host :: (List.replicate 256 Turn.host ++ commandTurns polls' []))) s
        = .next (.ret (gridThreshold s.gridSamples),
            ((s.counted low high).binarized (gridThreshold s.gridSamples)).after rs) := by
  obtain ⟨low, high, rs, hbounds, hhist⟩ := run_hist _ hb hg polls
    (Turn.host :: Turn.host :: (List.replicate 256 Turn.host ++ commandTurns polls' []))
  have hlow : ∀ rs, Answers ((s.counted low high).after rs) ⟨0x28, .read4⟩ (low.setWidth 32) _ := fun rs =>
    answers_readReg (r := .low) (by decide) rfl rfl (State.of_idle hb)
  have hhigh : ∀ rs, Answers ((s.counted low high).after rs) ⟨0x2C, .read4⟩ (high.setWidth 32) _ := fun rs =>
    answers_readReg (r := .high) (by decide) rfl rfl (State.of_idle hb)
  obtain ⟨rs₁, hbins⟩ := run_binReads (s := s.counted low high) hb
    (fun bins => issue (.bin (thresholdOf (low.setWidth 32) (high.setWidth 32) bins))
      (.wait (.ret (thresholdOf (low.setWidth 32) (high.setWidth 32) bins))))
    (⟨none, high.setWidth 32⟩ :: ⟨none, low.setWidth 32⟩ :: rs)
  rw [thresholdOf_counted hg hbounds] at hbins
  obtain ⟨rs₂, hbin⟩ := run_bin (s := (s.counted low high).after rs₁) (gridThreshold s.gridSamples)
    (.ret (gridThreshold s.gridSamples)) hb hg polls' []
  refine ⟨low, high, rs₂, hbounds, ?_⟩
  calc gbin.run _ s
      = _ := hhist
    _ = _ := run_cons (turn_perform_of_answers (hlow rs)) _
    _ = _ := run_cons (turn_perform_of_answers (hhigh _)) _
    _ = _ := run_append hbins _
    _ = _ := hbin

end Reports

/-- Settles O58: `HIST` counts the grid, and the 256 reads give its bins in order. -/
theorem histdumpReportsPairs : Obligations.HistdumpReportsPairs := by
  intro s polls hb hfits
  rw [List.replicate_add, List.replicate_one, List.singleton_append]
  have hg := gridOk_of_fits hfits
  obtain ⟨low, high, rs, hrun⟩ := run_histDump hb hg polls
  exact ⟨(s.counted low high).after rs, hrun, rfl, fun k => (counted_bin hg low high k).trans (count_gridSamples s k)⟩

/-- Settles O59: the bounds and bins that `HIST` leaves are those of the grid, so the threshold computed from the data
read is the grid's own, and `BIN` applies it. -/
theorem gbinBinarizesByOwnThreshold : Obligations.GbinBinarizesByOwnThreshold := by
  intro s polls polls' hb hfits
  have hturns (cs : List Turn) : List.replicate (1 + 2 + 256) Turn.host ++ cs
      = [Turn.host, Turn.host, Turn.host] ++ (List.replicate 256 Turn.host ++ cs) := by
    rw [List.replicate_add, List.append_assoc]
    rfl
  rw [hturns]
  obtain ⟨low, high, rs, hbounds, hrun⟩ := run_gbin hb (gridOk_of_fits hfits) polls polls'
  have hsample := binarized_sample (gridThreshold s.gridSamples) (s.counted low high)
  refine ⟨gridThreshold s.gridSamples, low, high,
    ((s.counted low high).binarized (gridThreshold s.gridSamples)).after rs, hrun, mem_gridSamples.mp hbounds.low_mem,
    mem_gridSamples.mp hbounds.high_mem, fun i hi => ?_, ?_, rfl, fun i hi => (hsample i).trans (if_pos hi),
    fun i hi => (hsample i).trans (if_neg (Nat.not_lt.mpr hi)), ?_⟩
  · have hmem := mem_gridSamples.mpr ⟨i, hi, rfl⟩
    exact ⟨hbounds.least _ hmem, hbounds.greatest _ hmem⟩
  · rw [hbounds.gridThreshold_toNat, gridHistogram_gridSamples]
  · rw [gonzalezBinarization, List.map_map]
    exact List.map_congr_left fun i hi => (hsample i).trans (if_pos (List.mem_range.mp hi))

end Sys2Proof.Machine

/-! The histogram (40_histogram.md R111 to R115): what `HIST` leaves in the bins, `LOW` and `HIGH`; and that every
command depends on its operands alone. -/

namespace Sys2Proof.Machine

section Histograms

open Sys2Proof.Statement

variable {s u : State} {low high : Sample}

/-! ### What HIST leaves -/

/-- The completing step of `HIST`, with the bounds it finds (R111). -/
theorem exec_hist_of_ready (h : Ready s) : ∃ low high, GridBounds s.gridSamples low high
    ∧ exec .hist s = .next (s.putHistogram (buildBins s.params.cntW s.gridSamples) low high).finish := by
  obtain ⟨low, high, hnext, hl, hh, least, greatest⟩ := completeHist_ok (gridOk_of_fits h.2)
  exact ⟨low, high, ⟨hl, hh, least, greatest⟩, (exec_busy_hist h.1).trans hnext⟩

theorem GridBounds.sample_between (hb : GridBounds s.gridSamples low high) (i : Nat) (hi : i < size s) :
    low.toNat ≤ (s.sample .A i).toNat ∧ (s.sample .A i).toNat ≤ high.toNat :=
  have hmem := mem_gridSamples.mpr ⟨i, hi, rfl⟩
  ⟨hb.least _ hmem, hb.greatest _ hmem⟩

/-- A bin outside the bounds is empty (R112). -/
theorem GridBounds.bin_eq_zero_outside (hb : GridBounds s.gridSamples low high) (hg : s.gridOk = true) {k : Sample}
    (hk : k.toNat < low.toNat ∨ high.toNat < k.toNat) : binOf (buildBins s.params.cntW s.gridSamples) k = 0 := by
  by_contra hne
  have hmem := (binOf_ne_zero_iff hg k).mp hne
  have hleast := hb.least k hmem
  have hgreatest := hb.greatest k hmem
  omega

/-! ### Conservation and permutation (R115) -/

/-- Every element of a list has one of the 256 intensities. -/
theorem sum_count_intensities (l : List Sample) : ∑ k : Fin 256, l.count (BitVec.ofNat 8 k.val) = l.length := by
  have hcount (k : Fin 256) : l.count (BitVec.ofNat 8 k.val) = (l.map BitVec.toFin).count k := by
    have hk : (BitVec.ofNat 8 k.val).toFin = k := by ext; simp
    rw [← List.count_map_of_injective l BitVec.toFin (fun _ _ => BitVec.eq_of_toFin_eq), hk]
  calc ∑ k : Fin 256, l.count (BitVec.ofNat 8 k.val)
      = ∑ k : Fin 256, (l.map BitVec.toFin : Multiset (Fin 256)).count k :=
        Finset.sum_congr rfl fun k _ => (hcount k).trans (Multiset.coe_count k _).symm
    _ = (l.map BitVec.toFin).length := Multiset.sum_count_eq_card fun k _ => Finset.mem_univ k
    _ = l.length := List.length_map _

theorem bins_ext {b c : Vector Word 256} (h : ∀ k, binOf b k = binOf c k) : b = c :=
  Vector.ext fun i hi => by simpa [binOf, Nat.mod_eq_of_lt hi] using h (BitVec.ofNat 8 i)

/-- The bins of a valid grid are fixed by how often each intensity occurs. -/
theorem buildBins_eq_of_perm (hs : s.gridOk = true) (hu : u.gridOk = true) (h : s.gridSamples.Perm u.gridSamples) :
    buildBins s.params.cntW s.gridSamples = buildBins u.params.cntW u.gridSamples :=
  bins_ext fun k => BitVec.eq_of_toNat_eq <| by
    rw [binOf_buildBins_grid hs, binOf_buildBins_grid hu, h.count_eq]

/-- Two lists with the same elements have the same bounds. -/
theorem GridBounds.eq_of_perm {l m : List Sample} {low' high' : Sample} (hl : GridBounds l low high)
    (hm : GridBounds m low' high') (h : l.Perm m) : low = low' ∧ high = high' :=
  ⟨BitVec.eq_of_toNat_eq
      (Nat.le_antisymm (hl.least _ (h.mem_iff.mpr hm.low_mem)) (hm.least _ (h.mem_iff.mp hl.low_mem))),
    BitVec.eq_of_toNat_eq
      (Nat.le_antisymm (hm.greatest _ (h.mem_iff.mp hl.high_mem)) (hl.greatest _ (h.mem_iff.mpr hm.high_mem)))⟩

/-- `HIST` leaves the same results for any order of the same samples. -/
theorem exec_hist_eq_of_perm (hs : Ready s) (hu : Ready u) (h : s.gridSamples.Perm u.gridSamples) :
    ∃ t v, exec .hist s = .next t ∧ exec .hist u = .next v ∧ t.bins = v.bins ∧ t.low = v.low ∧ t.high = v.high := by
  obtain ⟨_, _, hbs, hts⟩ := exec_hist_of_ready hs
  obtain ⟨_, _, hbu, htu⟩ := exec_hist_of_ready hu
  exact ⟨_, _, hts, htu, buildBins_eq_of_perm (gridOk_of_fits hs.2) (gridOk_of_fits hu.2) h, hbs.eq_of_perm hbu h⟩

/-! ### A uniform grid (R113) -/

theorem gridSamples_of_uniform {v : Sample} (h : ∀ i, i < size s → s.sample .A i = v) :
    s.gridSamples = List.replicate (size s) v := by
  refine List.eq_replicate_iff.mpr ⟨s.length_gridSamples, fun k hk => ?_⟩
  obtain ⟨i, hi, rfl⟩ := mem_gridSamples.mp hk
  exact h i hi

end Histograms

/-- Settles O13: the bins are the counts, and the bounds are those of the samples that occur. -/
theorem histCountsEverySample : Obligations.HistCountsEverySample := by
  intro s h
  obtain ⟨low, high, hbounds, hnext⟩ := exec_hist_of_ready h
  exact ⟨_, hnext, rfl, fun k => (binOf_buildBins_grid (gridOk_of_fits h.2) k).trans (count_gridSamples s k),
    mem_gridSamples.mp hbounds.low_mem, mem_gridSamples.mp hbounds.high_mem, hbounds.sample_between⟩

/-- Settles O14: a bin is nonzero exactly when its intensity occurs, and no intensity occurs outside the bounds. -/
theorem histBoundsAreTight : Obligations.HistBoundsAreTight := by
  intro s h
  have hg := gridOk_of_fits h.2
  obtain ⟨low, high, hbounds, hnext⟩ := exec_hist_of_ready h
  exact ⟨_, hnext, hbounds.least high hbounds.high_mem, hbounds.sample_between,
    (binOf_ne_zero_iff hg low).mpr hbounds.low_mem, (binOf_ne_zero_iff hg high).mpr hbounds.high_mem,
    fun _ => hbounds.bin_eq_zero_outside hg⟩

/-- Settles O15: the bins are the counts of grid A's samples, which sum to their number and do not depend on their
order. -/
theorem histConservesAndPermutes : Obligations.HistConservesAndPermutes := by
  refine ⟨fun s h => ?_, fun _ _ hs hu _ hperm => exec_hist_eq_of_perm hs hu hperm⟩
  obtain ⟨low, high, -, hnext⟩ := exec_hist_of_ready h
  refine ⟨_, hnext, ?_⟩
  calc _ = ∑ k : Fin 256, s.gridSamples.count (BitVec.ofNat 8 k.val) :=
        Finset.sum_congr rfl fun _ _ => binOf_buildBins_grid (gridOk_of_fits h.2) _
    _ = s.gridSamples.length := sum_count_intensities _
    _ = s.gridSize := s.length_gridSamples

/-- Settles O16: the samples are `A_W*A_H` copies of one value, which is then both bounds. -/
theorem uniformGridGivesEqualBounds : Obligations.UniformGridGivesEqualBounds := by
  intro s v h herr huniform
  have hsamples := gridSamples_of_uniform huniform
  obtain ⟨low, high, hbounds, hnext⟩ := exec_hist_of_ready h
  have hocc : ∀ k ∈ s.gridSamples, k = v := fun k hk => List.eq_of_mem_replicate (hsamples ▸ hk)
  refine ⟨_, hnext, hocc low hbounds.low_mem, hocc high hbounds.high_mem, herr, fun k => ?_⟩
  rw [State.finish_bin, State.bin, State.putHistogram_bins, binOf_buildBins_grid (gridOk_of_fits h.2), hsamples,
    List.count_replicate]
  simp only [beq_iff_eq, eq_comm (a := v) (b := k)]

section Operands

open Sys2Proof.Statement

variable {s u : State}

/-! ### The operands of a command (30_encoding.md R94) -/

/-- Two states agree in the parameters and in grid A, dimensions and samples. -/
structure SameGridA (s u : State) : Prop where
  params : s.params = u.params
  aW : s.aW = u.aW
  aH : s.aH = u.aH
  sample : ∀ j, j < size s → s.sample .A j = u.sample .A j

theorem SameGridA.size_eq (h : SameGridA s u) : size s = size u := by rw [size, size, h.aW, h.aH]

theorem SameGridA.gridSamples_eq (h : SameGridA s u) : s.gridSamples = u.gridSamples := by
  have hsize : s.gridSize = u.gridSize := h.size_eq
  rw [State.gridSamples, State.gridSamples, ← hsize]
  exact List.map_congr_left fun j hj => h.sample j (List.mem_range.mp hj)

/-! ### A stencil reads the grid only (42_convolution.md R131) -/

/-- All nine neighbours of an interior pixel lie in the grid. -/
theorem neighbour_congr {x y : Nat → Sample} {w h row col : Nat} (hin : interior w h row col = true)
    (hxy : ∀ j, j < w * h → x j = y j) (r c : Fin 3) : neighbour x w row col r c = neighbour y w row col r c := by
  obtain ⟨-, hrow, -, hcol⟩ := interior_iff.mp hin
  exact hxy _ (pixel_index_lt (by omega) (by omega))

theorem SameGridA.convPix_eq (h : SameGridA s u) (q : Fin 8) {row col : Nat}
    (hin : interior s.aW.toNat s.aH.toNat row col = true) : s.convPix q row col = u.convPix q row col := by
  have hnine := neighbour_congr hin h.sample
  simp only [State.convPix, stencilSum, hnine, h.params, ← h.aW]

theorem SameGridA.stencilAt_eq (h : SameGridA s u) {value value' : Nat → Nat → Sample}
    (hv : ∀ row col, interior s.aW.toNat s.aH.toNat row col = true → value row col = value' row col) (i : Nat) :
    s.stencilAt value i = u.stencilAt value' i := by
  simp only [State.stencilAt, ← h.aW, ← h.aH]
  split_ifs with hin
  · exact hv _ _ hin
  · rfl

theorem SameGridA.convGrid_eq (h : SameGridA s u) (q : Fin 8) (i : Nat) : s.convGrid q i = u.convGrid q i :=
  h.stencilAt_eq (fun _ _ => h.convPix_eq q) i

theorem SameGridA.edgeGrid_eq (h : SameGridA s u) (x y : Fin 8) (i : Nat) : s.edgeGrid x y i = u.edgeGrid x y i :=
  h.stencilAt_eq (fun _ _ hin => by rw [h.convPix_eq x hin, h.convPix_eq y hin]) i

/-- Each output sample inside the grid is a function of the command's operands. -/
theorem SameGridA.pixelOf_eq (h : SameGridA s u) (i : Instr)
    (hB : i = .max → ∀ j, j < size s → s.sample .B j = u.sample .B j) {j : Nat} (hj : j < size s) :
    pixelOf i s j = pixelOf i u j := by
  cases i with
  | hist => rfl
  | bin t => exact congrArg (binLut t) (h.sample j hj)
  | max => exact congrArg₂ sampleMax (h.sample j hj) (hB rfl j hj)
  | edgePrw | edgeSbl => exact h.edgeGrid_eq _ _ j
  | convAvg | convGauss | convLap | convPrwx | convPrwy | convSblx | convSbly | convHpf => exact h.convGrid_eq _ j

/-- A sample of grid O inside the grid, when a grid-producing command has completed. -/
theorem putGrid_finish_sample (s : State) (pix : Nat → Sample) {j : Nat} (hj : j < size s) :
    (s.putGrid pix).finish.sample .O j = pix j := (s.putGrid_sample_O pix j).trans (if_pos hj)

end Operands

/-- Settles O33: `HIST` depends on the list of grid A's samples, and every other command stores a grid each of whose
samples depends on the operands only. -/
theorem resultsDependOnOperandsOnly : Obligations.ResultsDependOnOperandsOnly := by
  intro i s u hs hu hparams hw hh hA hB
  have hsame : SameGridA s u := ⟨hparams, hw, hh, hA⟩
  by_cases hi : i = .hist
  · subst hi
    obtain ⟨t, v, ht, hv, hresults⟩ := exec_hist_eq_of_perm hs hu (.of_eq hsame.gridSamples_eq)
    exact ⟨t, v, ht, hv, fun _ => hresults, fun hne => absurd rfl hne⟩
  · refine ⟨_, _, exec_completes_grid hi hs.1 (gridOk_of_fits hs.2), exec_completes_grid hi hu.1 (gridOk_of_fits hu.2),
      fun he => absurd he hi, fun _ => ⟨hw, hh, fun j hj => ?_⟩⟩
    rw [putGrid_finish_sample s _ hj, putGrid_finish_sample u _ (hsame.size_eq ▸ hj), hsame.pixelOf_eq i hB hj]

end Sys2Proof.Machine

/-! Binarization (41_binarization.md R120 to R124): what `BIN` stores, and its two output values counted by the
histogram. -/

namespace Sys2Proof.Machine

section Binarization

open Sys2Proof.Statement

variable {s : State}

/-! ### What BIN stores (R121, R122) -/

theorem binLut_eq_white_iff {T k : Sample} : binLut T k = 255 ↔ T.toNat ≤ k.toNat := by
  rw [binLut]
  split_ifs with hlt
  · exact iff_of_false (by decide) (Nat.not_le.mpr hlt)
  · exact iff_of_true rfl (Nat.not_lt.mp hlt)

theorem binLut_eq_black_iff {T k : Sample} : binLut T k = 0 ↔ k.toNat < T.toNat := by
  rw [binLut]
  split_ifs with hlt
  · exact iff_of_true rfl hlt
  · exact iff_of_false (by decide) hlt

/-- The completing step of `BIN #T`: it writes the lookup function of grid A's samples and leaves the rest. -/
theorem exec_bin_of_ready (h : Ready s) (T : Sample) :
    ∃ t, exec (.bin T) s = .next t ∧ GridFrame s t ∧ ∀ i, i < size s → t.sample .O i = binLut T (s.sample .A i) :=
  ⟨_, exec_completes_grid (i := .bin T) nofun h.1 (gridOk_of_fits h.2), putGrid_frame _ _,
    fun _ => putGrid_finish_sample s _⟩

/-! ### Counting by intensity (R124) -/

/-- The elements that meet a condition are counted intensity by intensity: what is left of the list after filtering is
conserved. -/
theorem countP_eq_sum_count (l : List Sample) (p : Sample → Bool) :
    l.countP p = ∑ k : Fin 256, if p (BitVec.ofNat 8 k.val) then l.count (BitVec.ofNat 8 k.val) else 0 := by
  rw [List.countP_eq_length_filter, ← sum_count_intensities]
  refine Finset.sum_congr rfl fun k _ => ?_
  split_ifs with hp
  · exact List.count_filter hp
  · exact List.count_eq_zero.mpr fun hmem => hp (List.of_mem_filter hmem)

/-- A current histogram counts the samples of grid A that meet a condition on their intensity. -/
theorem State.HistogramCurrent.countP_gridSamples (h : s.HistogramCurrent) {p : Sample → Bool} {q : Nat → Prop}
    [DecidablePred q] (hpq : ∀ v, p v = true ↔ q v.toNat) :
    s.gridSamples.countP p = ∑ k : Fin 256, if q k.val then (s.bin (BitVec.ofNat 8 k.val)).toNat else 0 := by
  rw [countP_eq_sum_count]
  refine Finset.sum_congr rfl fun k _ => ?_
  have hk : (BitVec.ofNat 8 k.val).toNat = k.val := by rw [BitVec.toNat_ofNat, Nat.mod_eq_of_lt k.isLt]
  rw [h.bin_eq, State.occurrences]
  exact if_congr (by rw [hpq, hk]) rfl rfl

/-- Output samples of one value are counted on grid A, as the samples that the lookup function sends to it. -/
theorem countP_output_eq {t : State} {f : Sample → Sample} (hf : ∀ i, i < size s → t.sample .O i = f (s.sample .A i))
    (v : Sample) :
    (List.range (size s)).countP (fun i => decide (t.sample .O i = v))
      = s.gridSamples.countP (fun k => decide (f k = v)) := by
  rw [State.gridSamples, List.countP_map]
  exact List.countP_congr fun i hi => by rw [hf i (List.mem_range.mp hi)]; rfl

end Binarization

/-- Settles O17: the completing step stores the lookup function of every sample, defined by the strict comparison
with `T`. -/
theorem binThresholdsEverySample : Obligations.BinThresholdsEverySample := fun _ T h => exec_bin_of_ready h T

/-- Settles O18: an output sample is 255 exactly when its sample of grid A is at least `T`, and 0 exactly when it is
below, and the bins count the samples of grid A by intensity. -/
theorem binCountsFollowHistogram : Obligations.BinCountsFollowHistogram := by
  intro s T h hcurrent
  obtain ⟨t, hnext, -, houtput⟩ := exec_bin_of_ready h T
  refine ⟨t, hnext, ?_, ?_⟩
  · exact (countP_output_eq houtput 255).trans
      (hcurrent.countP_gridSamples (q := (T.toNat ≤ ·)) fun _ => decide_eq_true_iff.trans binLut_eq_white_iff)
  · exact (countP_output_eq houtput 0).trans
      (hcurrent.countP_gridSamples (q := (· < T.toNat)) fun _ => decide_eq_true_iff.trans binLut_eq_black_iff)

end Sys2Proof.Machine

/-! The convolution commands (42_convolution.md R130 to R150): the border, the loops of R139, what each kernel of the
default library computes, and uniform input. -/

namespace Sys2Proof.Machine

section Convolution

open Sys2Proof.Statement

variable {s : State}

/-! ### The commands that store a stencil (R131, R132) -/

/-- The commands that store a computed value at interior pixels and 0 on the border. -/
abbrev stencilCommands : List Instr := stencils.map Prod.fst ++ [.edgePrw, .edgeSbl]

theorem edgeGrid_eq_stencilAt (x y : Fin 8) (s : State) (j : Nat) : s.edgeGrid x y j
    = s.stencilAt (fun row col => sampleMax (s.convPix x row col) (s.convPix y row col)) j := rfl

theorem pixelOf_stencilCommands (s : State) {i : Instr} (hi : i ∈ stencilCommands) :
    i ≠ .hist ∧ ∃ value, ∀ j, pixelOf i s j = s.stencilAt value j := by
  rcases List.mem_append.mp hi with hconv | hedge
  · obtain ⟨r, hr, rfl⟩ := List.mem_map.mp hconv
    obtain ⟨hne, hpix⟩ := pixelOf_stencils r hr
    exact ⟨hne, s.convPix r.2, fun j => by rw [hpix, State.convGrid]⟩
  · rcases List.mem_pair.mp hedge with rfl | rfl
    · exact ⟨nofun, _, edgeGrid_eq_stencilAt 4 5 s⟩
    · exact ⟨nofun, _, edgeGrid_eq_stencilAt 6 7 s⟩

theorem exec_grid_of_ready (hs : Ready s) {i : Instr} (hi : i ≠ .hist) :
    ∃ t, exec i s = .next t ∧ GridFrame s t ∧ ∀ j, j < size s → t.sample .O j = pixelOf i s j :=
  ⟨_, exec_completes_grid hi hs.1 (gridOk_of_fits hs.2), putGrid_frame _ _, fun _ => putGrid_finish_sample s _⟩

theorem exec_stencil_of_ready (hs : Ready s) {i : Instr} (hi : i ∈ stencilCommands) :
    ∃ t value, exec i s = .next t ∧ GridFrame s t ∧ ∀ j, j < size s → t.sample .O j = s.stencilAt value j := by
  obtain ⟨hne, value, hpix⟩ := pixelOf_stencilCommands s hi
  obtain ⟨t, hnext, hframe, hgrid⟩ := exec_grid_of_ready hs hne
  exact ⟨t, value, hnext, hframe, fun j hj => (hgrid j hj).trans (hpix j)⟩

/-! ### The border (R132) -/

theorem index_lt_of_interior {row col : Nat} (h : Interior s row col) : row * s.aW.toNat + col < size s := by
  obtain ⟨-, hrow, -, hcol⟩ := h
  exact pixel_index_lt (by omega) (by omega)

theorem interior_eq_false_of_border {row col : Nat} (h : Border s row col) :
    interior s.aW.toNat s.aH.toNat row col = false := by
  obtain ⟨-, -, hring⟩ := h
  rw [← Bool.not_eq_true, interior_iff]
  omega

/-- A grid narrower or shorter than 3 is all border (R131). -/
theorem stencilAt_of_small (hsmall : s.aW.toNat < 3 ∨ s.aH.toNat < 3) (value : Nat → Nat → Sample) (j : Nat) :
    s.stencilAt value j = 0 := by
  refine if_neg ?_
  rw [interior_iff]
  omega

/-! ### The loops of R139 -/

/-- A loop of stores, each of a value fixed by its index: a stored index reads as its value, any other as before. -/
theorem Memory.read?_foldl_write (v : Nat → Sample) (l : List Nat) (m : Memory) (i : Nat) :
    (l.foldl (fun m j => Memory.write m j (v j)) m).read? i = if i ∈ l then some (v i) else m.read? i := by
  induction l generalizing m with
  | nil => rfl
  | cons j l ih =>
    rw [List.foldl_cons, ih, Memory.read?_write]
    by_cases hl : i ∈ l
    · simp [hl]
    · by_cases hj : i = j <;> simp [hl, hj]

/-- The flat indices of the interior pixels of a grid of width `w` and height `h`, in row-major order. -/
def interiorIndices (w h : Nat) : List Nat :=
  (List.range (h - 2)).flatMap fun row => (List.range (w - 2)).map fun col => (row + 1) * w + (col + 1)

theorem mem_interiorIndices {w h i : Nat} : i ∈ interiorIndices w h ↔ interior w h (i / w) (i % w) = true := by
  simp only [interiorIndices, List.mem_flatMap, List.mem_map, List.mem_range, interior_iff]
  constructor
  · rintro ⟨row, hrow, col, hcol, rfl⟩
    have hc : col + 1 < w := by omega
    have hdiv : ((row + 1) * w + (col + 1)) / w = row + 1 := by
      rw [Nat.mul_comm, Nat.mul_add_div (by omega), Nat.div_eq_of_lt hc, Nat.add_zero]
    have hmod : ((row + 1) * w + (col + 1)) % w = col + 1 := by
      rw [Nat.mul_comm, Nat.mul_add_mod, Nat.mod_eq_of_lt hc]
    omega
  · rintro ⟨hrow, hheight, hcol, hwidth⟩
    refine ⟨i / w - 1, by omega, i % w - 1, by omega, ?_⟩
    rw [Nat.sub_add_cancel hrow, Nat.sub_add_cancel hcol, Nat.div_add_mod']

theorem lt_size_of_mem_interiorIndices {i : Nat} (h : i ∈ interiorIndices s.aW.toNat s.aH.toNat) : i < size s := by
  have hin : Interior s (i / s.aW.toNat) (i % s.aW.toNat) := interior_iff.mp (mem_interiorIndices.mp h)
  exact Nat.div_add_mod' i s.aW.toNat ▸ index_lt_of_interior hin

theorem convGrid_of_not_mem_interiorIndices (q : Fin 8) {i : Nat} (h : i ∉ interiorIndices s.aW.toNat s.aH.toNat) :
    s.convGrid q i = 0 := if_neg (mt mem_interiorIndices.mpr h)

/-- The two nested loops over the interior pixels are one loop over their indices. -/
theorem nested_loops_eq_foldl_interiorIndices (s : State) (q : Fin 8) (m : Memory) :
    ((List.range (s.aH.toNat - 2)).foldl (fun m row =>
        (List.range (s.aW.toNat - 2)).foldl (fun m col =>
          Memory.write m ((row + 1) * s.aW.toNat + (col + 1)) (s.convPix q (row + 1) (col + 1))) m) m)
      = (interiorIndices s.aW.toNat s.aH.toNat).foldl (fun m j => Memory.write m j (s.convGrid q j)) m := by
  rw [interiorIndices, List.foldl_flatMap]
  refine List.foldl_ext _ _ _ fun m row hrow => ?_
  rw [List.foldl_map]
  refine List.foldl_ext _ _ _ fun m col hcol => ?_
  rw [List.mem_range] at hrow hcol
  rw [State.convGrid, State.stencilAt_interior (by omega) (interior_iff.mpr (by omega))]

/-- What the loops of R139 leave reads as what the one pass of the completing step leaves (log 13). -/
theorem read?_loops_eq_read?_fill (s : State) (q : Fin 8) (m : Memory) (i : Nat) :
    ((interiorIndices s.aW.toNat s.aH.toNat).foldl (fun m j => Memory.write m j (s.convGrid q j))
        ((List.range (size s)).foldl (fun m j => Memory.write m j 0) m)).read? i
      = (m.fill (size s) (s.convGrid q)).read? i := by
  rw [Memory.read?_foldl_write, Memory.read?_foldl_write (fun _ => 0), Memory.read?_fill]
  by_cases hin : i ∈ interiorIndices s.aW.toNat s.aH.toNat
  · rw [if_pos hin, if_pos (lt_size_of_mem_interiorIndices hin)]
  · simp only [if_neg hin, convGrid_of_not_mem_interiorIndices q hin, List.mem_range]

/-! ### The weighted sum of a kernel given by its numerators (R135) -/

theorem windowSum_of_numerators {K : Kernel} {a b c d e f g h k : Int} (hK : K.numerators = [a, b, c, d, e, f, g, h, k])
    (s : State) (row col : Nat) :
    windowSum s K row col =
      a * pix s .A (row - 1) (col - 1) + b * pix s .A (row - 1) col + c * pix s .A (row - 1) (col + 1)
        + d * pix s .A row (col - 1) + e * pix s .A row col + f * pix s .A row (col + 1)
        + g * pix s .A (row + 1) (col - 1) + h * pix s .A (row + 1) col + k * pix s .A (row + 1) (col + 1) := by
  rw [Kernel.numerators_eq] at hK
  simp only [List.cons.injEq, and_true] at hK
  obtain ⟨rfl, rfl, rfl, rfl, rfl, rfl, rfl, rfl, rfl⟩ := hK
  simp only [windowSum, Fin.sum_univ_three, Fin.val_zero, Fin.val_one, Fin.val_two, Nat.add_zero, Nat.add_sub_cancel,
    Nat.add_succ_sub_one]
  ring

/-- Over a uniform window the sum is the common value times the sum of the numerators. -/
theorem windowSum_of_uniform {v : Sample} (hv : ∀ i, i < size s → s.sample .A i = v) (K : Kernel) {row col : Nat}
    (hin : Interior s row col) : windowSum s K row col = v.toNat * K.numerators.sum := by
  have hwindow : ∀ r c, neighbour (s.sample .A) s.aW.toNat row col r c = v :=
    neighbour_congr (y := fun _ => v) (interior_iff.mpr hin) hv
  rw [windowSum_eq_stencilSum, stencilSum_eq, Kernel.numerators_eq]
  simp only [hwindow, List.sum_cons, List.sum_nil]
  ring

/-! ### The three policies (R136 to R138) -/

theorem processed_windowSum_direct {K : Kernel} (hK : K.wf = true) (hp : K.policy = .direct) {d : Int}
    (hden : K.den.toNat = d) (s : State) (row col : Nat) :
    processed K (windowSum s K row col) = windowSum s K row col / d := by
  have hnonneg := (stencilSum_direct hK hp (s.sample .A) s.aW.toNat row col).1
  rw [← windowSum_eq_stencilSum] at hnonneg
  simp only [processed, hp, hden]
  exact Int.tdiv_eq_ediv_of_nonneg hnonneg

theorem processed_scaledMagnitude {K : Kernel} (hp : K.policy = .scaledMagnitude) (hden : K.den = 1) {n : Int}
    (hscale : K.scale.toNat = n) (S : Int) : processed K S = |S| / n := by
  simp [processed, hp, hden, hscale]

theorem processed_clamped {K : Kernel} (hp : K.policy = .clamped) (hden : K.den = 1) (S : Int) :
    processed K S = min (max S 0) 255 := by
  have hone : (K.den.toNat : Int) = 1 := by rw [hden]; rfl
  simp only [processed, hp, hone, Int.ediv_one]
  split_ifs <;> omega

theorem processed_scaledMagnitude_zero {K : Kernel} (hp : K.policy = .scaledMagnitude) : processed K 0 = 0 := by
  simp [processed, hp]

/-- A direct kernel passes a uniform window on: its numerators sum to its denominator (R133). -/
theorem processed_direct_uniform {K : Kernel} (hK : K.wf = true) (hp : K.policy = .direct) (v : Int) :
    processed K (v * K.numerators.sum) = v := by
  have hden := (Kernel.wf_facts hK).1
  rw [(Kernel.direct_facts hK hp).2]
  simp only [processed, hp]
  exact Int.mul_tdiv_cancel v (by omega)

/-! ### The default library (R134, log 7) -/

theorem kernelAverage_numerators : kernelAverage.numerators = [1, 1, 1, 1, 1, 1, 1, 1, 1] := by decide
theorem kernelGaussian_numerators : kernelGaussian.numerators = [1, 2, 1, 2, 4, 2, 1, 2, 1] := by decide
theorem kernelLaplacian_numerators : kernelLaplacian.numerators = [-1, -1, -1, -1, 8, -1, -1, -1, -1] := by decide
theorem kernelLaplacianHpf_numerators : kernelLaplacianHpf.numerators = [-1, -1, -1, -1, 9, -1, -1, -1, -1] := by decide
theorem kernelPrewittX_numerators : kernelPrewittX.numerators = [-1, 0, 1, -1, 0, 1, -1, 0, 1] := by decide
theorem kernelPrewittY_numerators : kernelPrewittY.numerators = [-1, -1, -1, 0, 0, 0, 1, 1, 1] := by decide
theorem kernelSobelX_numerators : kernelSobelX.numerators = [-1, 0, 1, -2, 0, 2, -1, 0, 1] := by decide
theorem kernelSobelY_numerators : kernelSobelY.numerators = [-1, -2, -1, 0, 0, 0, 1, 2, 1] := by decide

section DefaultLibrary

variable (hs : Ready s) (hlib : s.params.values.klib = defaultKlib)

include hlib in
theorem kernel_of_default (q : Fin 8) : s.params.kernel q = defaultKlib[q] := by rw [Params.kernel, hlib]

include hs hlib in
/-- A single-kernel command stores `f` inside when `f` is what its kernel of the default library computes. -/
theorem exec_conv_of_default {i : Instr} {q : Fin 8} {K : Kernel} (hr : (i, q) ∈ stencils) (hK : defaultKlib[q] = K)
    {f : Nat → Nat → Int} (hf : ∀ row col, processed K (windowSum s K row col) = f row col) :
    ∃ t, exec i s = .next t ∧ GridFrame s t ∧ ∀ row col, Interior s row col → pix t .O row col = f row col := by
  obtain ⟨t, hnext, hframe, hpix⟩ := stencilStoresProcessedSum s hs _ hr
  refine ⟨t, hnext, hframe, fun row col hin => ?_⟩
  rw [hpix row col hin, kernel_of_default hlib, hK, hf]

/-! ### Uniform input (R150) -/

/-- The library entries of Average, Gaussian and Laplacian-HPF. -/
abbrev smoothingKernels : List (Fin 8) := [0, 1, 3]

/-- The library entries of Laplacian, Prewitt and Sobel. -/
abbrev edgeKernels : List (Fin 8) := [2, 4, 5, 6, 7]

theorem convPix_toNat (s : State) (q : Fin 8) (row col : Nat) :
    ((s.convPix q row col).toNat : Int) = processed (s.params.kernel q) (windowSum s (s.params.kernel q) row col) := by
  rw [processed_eq_postInt, windowSum_eq_stencilSum]
  exact post_toNat (s.params.kernel_wf q) _ _ _ _

/-- Average, Gaussian and Laplacian-HPF pass a sample on. -/
theorem processed_smoothing (v : Sample) :
    ∀ q ∈ smoothingKernels, processed defaultKlib[q] (v.toNat * defaultKlib[q].numerators.sum) = v.toNat := by
  simp only [smoothingKernels, List.forall_mem_cons, List.not_mem_nil, false_implies, implies_true, and_true]
  refine ⟨processed_direct_uniform (by decide) rfl _, processed_direct_uniform (by decide) rfl _, ?_⟩
  have hsum : defaultKlib[(3 : Fin 8)].numerators.sum = 1 := by decide
  have hv := v.isLt
  rw [hsum, processed_clamped rfl rfl]
  omega

/-- The numerators of an edge kernel cancel. -/
theorem numerators_sum_edge : ∀ q ∈ edgeKernels,
    defaultKlib[q].policy = .scaledMagnitude ∧ defaultKlib[q].numerators.sum = 0 := by decide

variable {v : Sample} (hv : ∀ i, i < size s → s.sample .A i = v) {row col : Nat} (hin : Interior s row col)

section

include hlib hv hin

theorem convPix_of_uniform (q : Fin 8) :
    ((s.convPix q row col).toNat : Int) = processed defaultKlib[q] (v.toNat * defaultKlib[q].numerators.sum) := by
  rw [convPix_toNat, kernel_of_default hlib, windowSum_of_uniform hv _ hin]

theorem convPix_smoothing_of_uniform {q : Fin 8} (hq : q ∈ smoothingKernels) : s.convPix q row col = v :=
  BitVec.eq_of_toNat_eq (Int.ofNat.inj ((convPix_of_uniform hlib hv hin q).trans (processed_smoothing v q hq)))

theorem convPix_edge_of_uniform {q : Fin 8} (hq : q ∈ edgeKernels) : s.convPix q row col = 0 := by
  obtain ⟨hp, hsum⟩ := numerators_sum_edge q hq
  have hzero := convPix_of_uniform hlib hv hin q
  rw [hsum, mul_zero, processed_scaledMagnitude_zero hp] at hzero
  exact BitVec.eq_of_toNat_eq (Int.ofNat.inj hzero)

theorem sampleMax_convPix_of_uniform {x y : Fin 8} (hx : x ∈ edgeKernels)
    (hy : y ∈ edgeKernels) : sampleMax (s.convPix x row col) (s.convPix y row col) = 0 := by
  rw [convPix_edge_of_uniform hlib hv hin hx, convPix_edge_of_uniform hlib hv hin hy]
  rfl

end

section

include hs

/-- A stencil whose computed value is `c` at every interior pixel stores `c` at every interior pixel. -/
theorem exec_stencil_interior {i : Instr} (hi : i ≠ .hist) {value : Nat → Nat → Sample}
    (hpix : ∀ j, pixelOf i s j = s.stencilAt value j) {c : Sample}
    (hvalue : ∀ row col, Interior s row col → value row col = c) :
    ∃ t, exec i s = .next t ∧ ∀ row col, Interior s row col → t.sample .O (row * s.aW.toNat + col) = c := by
  obtain ⟨t, hnext, -, hgrid⟩ := exec_grid_of_ready hs hi
  refine ⟨t, hnext, fun row col hin => ?_⟩
  have ⟨_, _, _, hcol⟩ := hin
  rw [hgrid _ (index_lt_of_interior hin), hpix, State.stencilAt_interior (by omega) (interior_iff.mpr hin),
    hvalue row col hin]

theorem exec_conv_interior {i : Instr} {q : Fin 8} (hr : (i, q) ∈ stencils) {c : Sample}
    (hvalue : ∀ row col, Interior s row col → s.convPix q row col = c) :
    ∃ t, exec i s = .next t ∧ ∀ row col, Interior s row col → t.sample .O (row * s.aW.toNat + col) = c := by
  obtain ⟨hi, hpix⟩ := pixelOf_stencils _ hr
  exact exec_stencil_interior hs hi (fun j => congrFun (congrFun hpix s) j) hvalue

include hlib hv

theorem exec_smoothing_of_uniform {i : Instr} {q : Fin 8} (hr : (i, q) ∈ stencils) (hq : q ∈ smoothingKernels) :
    ∃ t, exec i s = .next t ∧ ∀ row col, Interior s row col → t.sample .O (row * s.aW.toNat + col) = v :=
  exec_conv_interior hs hr fun _ _ hin => convPix_smoothing_of_uniform hlib hv hin hq

theorem exec_edge_of_uniform {i : Instr} {q : Fin 8} (hr : (i, q) ∈ stencils) (hq : q ∈ edgeKernels) :
    ∃ t, exec i s = .next t ∧ ∀ row col, Interior s row col → t.sample .O (row * s.aW.toNat + col) = 0 :=
  exec_conv_interior hs hr fun _ _ hin => convPix_edge_of_uniform hlib hv hin hq

theorem exec_combined_of_uniform {i : Instr} {x y : Fin 8} (hi : i ≠ .hist)
    (hpix : ∀ j, pixelOf i s j = s.edgeGrid x y j) (hx : x ∈ edgeKernels) (hy : y ∈ edgeKernels) :
    ∃ t, exec i s = .next t ∧ ∀ row col, Interior s row col → t.sample .O (row * s.aW.toNat + col) = 0 :=
  exec_stencil_interior hs hi hpix fun _ _ hin => sampleMax_convPix_of_uniform hlib hv hin hx hy

end

end DefaultLibrary

end Convolution

/-- Settles O20: a border pixel is not interior, so the stencil stores 0 there; the frame keeps what lies beyond. -/
theorem stencilBorderIsZero : Obligations.StencilBorderIsZero := by
  intro s hs i hi
  obtain ⟨t, value, hnext, ⟨-, hbeyond⟩, hgrid⟩ := exec_stencil_of_ready hs hi
  refine ⟨t, hnext, fun row col hborder => ?_, hbeyond⟩
  have ⟨hrow, hcol, _⟩ := hborder
  rw [hgrid _ (pixel_index_lt hrow hcol), State.stencilAt_border hcol (interior_eq_false_of_border hborder)]

/-- Settles O21: such a grid has no interior pixel. -/
theorem smallGridsGiveZeroOutput : Obligations.SmallGridsGiveZeroOutput := by
  intro s hs hsmall i hi
  obtain ⟨t, value, hnext, hframe, hgrid⟩ := exec_stencil_of_ready hs hi
  exact ⟨t, hnext, hframe, fun j hj => (hgrid j hj).trans (stencilAt_of_small hsmall value j)⟩

/-- Settles O29: the nested loops are one loop over the interior indices, which reads as the one-pass fill. -/
theorem stencilIsTheLoopOfStores : Obligations.StencilIsTheLoopOfStores := by
  intro s hs r hr
  obtain ⟨hi, hpix⟩ := pixelOf_stencils r hr
  refine ⟨_, exec_completes_grid hi hs.1 (gridOk_of_fits hs.2), fun i => ?_⟩
  rw [nested_loops_eq_foldl_interiorIndices, read?_loops_eq_read?_fill, hpix]
  rfl

/-- Settles O22: nine equal weights, over 9. -/
theorem convAvgAveragesWindow : Obligations.ConvAvgAveragesWindow := by
  refine fun s hs hlib => exec_conv_of_default hs hlib (K := kernelAverage) (q := 0) (by decide) rfl fun row col => ?_
  rw [processed_windowSum_direct (d := 9) (by decide) rfl rfl, windowSum_of_numerators kernelAverage_numerators]
  congr 1; ring

/-- Settles O23: the weights 1, 2, 4, over 16. -/
theorem convGaussSmoothsWindow : Obligations.ConvGaussSmoothsWindow := by
  refine fun s hs hlib => exec_conv_of_default hs hlib (K := kernelGaussian) (q := 1) (by decide) rfl fun row col => ?_
  rw [processed_windowSum_direct (d := 16) (by decide) rfl rfl, windowSum_of_numerators kernelGaussian_numerators]
  congr 1; ring

/-- Settles O24: the centre 8, each neighbour -1, magnitude over 8. -/
theorem convLapMeasuresLaplacian : Obligations.ConvLapMeasuresLaplacian := by
  refine fun s hs hlib => exec_conv_of_default hs hlib (K := kernelLaplacian) (q := 2) (by decide) rfl fun row col => ?_
  rw [processed_scaledMagnitude (n := 8) rfl rfl rfl, windowSum_of_numerators kernelLaplacian_numerators]
  congr 2; ring

/-- Settles O25: the centre 9, each neighbour -1, clamped. -/
theorem convHpfClampsHighPass : Obligations.ConvHpfClampsHighPass := by
  refine fun s hs hlib => exec_conv_of_default hs hlib (K := kernelLaplacianHpf) (q := 3) (by decide) rfl fun row col => ?_
  rw [processed_clamped rfl rfl, windowSum_of_numerators kernelLaplacianHpf_numerators]
  congr 2; ring

/-- Settles O26: the two Prewitt kernels, magnitude over 3. -/
theorem prewittMeasuresDirections : Obligations.PrewittMeasuresDirections := by
  refine fun s hs hlib => ⟨exec_conv_of_default hs hlib (K := kernelPrewittX) (q := 4) (by decide) rfl fun row col => ?_,
    exec_conv_of_default hs hlib (K := kernelPrewittY) (q := 5) (by decide) rfl fun row col => ?_⟩
  · rw [processed_scaledMagnitude (n := 3) rfl rfl rfl, windowSum_of_numerators kernelPrewittX_numerators]
    congr 2; ring
  · rw [processed_scaledMagnitude (n := 3) rfl rfl rfl, windowSum_of_numerators kernelPrewittY_numerators]
    congr 2; ring

/-- Settles O27: the two Sobel kernels, magnitude over 4. -/
theorem sobelMeasuresDirections : Obligations.SobelMeasuresDirections := by
  refine fun s hs hlib => ⟨exec_conv_of_default hs hlib (K := kernelSobelX) (q := 6) (by decide) rfl fun row col => ?_,
    exec_conv_of_default hs hlib (K := kernelSobelY) (q := 7) (by decide) rfl fun row col => ?_⟩
  · rw [processed_scaledMagnitude (n := 4) rfl rfl rfl, windowSum_of_numerators kernelSobelX_numerators]
    congr 2; ring
  · rw [processed_scaledMagnitude (n := 4) rfl rfl rfl, windowSum_of_numerators kernelSobelY_numerators]
    congr 2; ring

/-- Settles O28: over a uniform window the smoothing kernels give the value back and the edge kernels cancel, so that
the combined commands take the greater of 0 and 0. -/
theorem uniformInputPassesOrVanishes : Obligations.UniformInputPassesOrVanishes := by
  intro s v hs hlib hv
  simp only [List.forall_mem_cons, List.not_mem_nil, false_implies, implies_true, and_true]
  refine ⟨⟨exec_smoothing_of_uniform hs hlib hv (q := 0) ?_ ?_, exec_smoothing_of_uniform hs hlib hv (q := 1) ?_ ?_,
    exec_smoothing_of_uniform hs hlib hv (q := 3) ?_ ?_⟩,
    exec_edge_of_uniform hs hlib hv (q := 2) ?_ ?_, exec_edge_of_uniform hs hlib hv (q := 4) ?_ ?_,
    exec_edge_of_uniform hs hlib hv (q := 5) ?_ ?_, exec_edge_of_uniform hs hlib hv (q := 6) ?_ ?_,
    exec_edge_of_uniform hs hlib hv (q := 7) ?_ ?_,
    exec_combined_of_uniform hs hlib hv (x := 4) (y := 5) nofun (fun _ => rfl) ?_ ?_,
    exec_combined_of_uniform hs hlib hv (x := 6) (y := 7) nofun (fun _ => rfl) ?_ ?_⟩ <;> decide

end Sys2Proof.Machine

/-! The edge combiner (43_edge_combiner.md R160 to R165): the greater of two samples, what `MAX` stores, and the combined
edge commands as the combiner of two stencil outputs. -/

namespace Sys2Proof.Machine

/-! ### The greater of two samples (R165) -/

theorem sampleMax_toNat (a b : Sample) : (sampleMax a b).toNat = max a.toNat b.toNat := by
  rw [sampleMax, max_def_lt]
  split_ifs <;> rfl

theorem sampleMax_eq_or (a b : Sample) : sampleMax a b = a ∨ sampleMax a b = b := by
  rw [sampleMax]
  split_ifs
  · exact .inr rfl
  · exact .inl rfl

@[simp] theorem sampleMax_self (a : Sample) : sampleMax a a = a := ite_self a

theorem sampleMax_comm (a b : Sample) : sampleMax a b = sampleMax b a :=
  BitVec.eq_of_toNat_eq (by rw [sampleMax_toNat, sampleMax_toNat, max_comm])

theorem le_sampleMax_left (a b : Sample) : a.toNat ≤ (sampleMax a b).toNat :=
  (le_max_left _ _).trans_eq (sampleMax_toNat a b).symm

theorem le_sampleMax_right (a b : Sample) : b.toNat ≤ (sampleMax a b).toNat :=
  (le_max_right _ _).trans_eq (sampleMax_toNat a b).symm

theorem sampleMax_mono {a b c d : Sample} (hac : a.toNat ≤ c.toNat) (hbd : b.toNat ≤ d.toNat) :
    (sampleMax a b).toNat ≤ (sampleMax c d).toNat := by
  rw [sampleMax_toNat, sampleMax_toNat]
  exact max_le_max hac hbd

section Combiner

open Sys2Proof.Statement

variable {s : State}

/-! ### What MAX stores (R160) -/

theorem exec_max_of_ready (hs : Ready s) :
    ∃ t, exec .max s = .next t ∧ GridFrame s t
      ∧ ∀ i, i < size s → t.sample .O i = sampleMax (s.sample .A i) (s.sample .B i) :=
  exec_grid_of_ready hs nofun

/-! ### The combined edge commands (R161 to R163) -/

/-- The output grid of a combined command is the combiner of two stencil output grids: inside by definition, and on
the border the greater of 0 and 0 is 0. -/
theorem edgeGrid_eq_sampleMax_convGrid (s : State) (x y : Fin 8) (i : Nat) :
    s.edgeGrid x y i = sampleMax (s.convGrid x i) (s.convGrid y i) := by
  simp only [State.edgeGrid, State.convGrid, State.stencilAt]
  split_ifs
  · rfl
  · exact (sampleMax_self 0).symm

/-- A command that stores the combined grid of the kernels of two others stores the greater of their outputs. -/
theorem exec_combined_of_ready (hs : Ready s) {c cx cy : Instr} {x y : Fin 8} (hc : c ≠ .hist) (hcx : cx ≠ .hist)
    (hcy : cy ≠ .hist) (hpix : pixelOf c = State.edgeGrid x y) (hx : pixelOf cx = State.convGrid x)
    (hy : pixelOf cy = State.convGrid y) :
    ∃ t u v, exec c s = .next t ∧ GridFrame s t ∧ exec cx s = .next u ∧ exec cy s = .next v
      ∧ ∀ i, i < size s → (t.sample .O i).toNat = Nat.max (u.sample .O i).toNat (v.sample .O i).toNat := by
  obtain ⟨t, hnext, hframe, ht⟩ := exec_grid_of_ready hs hc
  obtain ⟨u, hnextx, -, hu⟩ := exec_grid_of_ready hs hcx
  obtain ⟨v, hnexty, -, hv⟩ := exec_grid_of_ready hs hcy
  refine ⟨t, u, v, hnext, hframe, hnextx, hnexty, fun i hi => ?_⟩
  rw [ht i hi, hu i hi, hv i hi, hpix, hx, hy, edgeGrid_eq_sampleMax_convGrid, sampleMax_toNat]

end Combiner

/-- Settles O30: the completing step stores the greater sample at every index of the grid and leaves the rest. -/
theorem maxTakesGreaterSample : Obligations.MaxTakesGreaterSample := by
  intro s hs
  obtain ⟨t, hnext, hframe, hgrid⟩ := exec_max_of_ready hs
  exact ⟨t, hnext, hframe, fun i hi => by rw [hgrid i hi, sampleMax_toNat]⟩

/-- Settles O31: each combined command stores the combined grid of the two kernels that its X and its Y command use. -/
theorem edgeCommandsCombineStencils : Obligations.EdgeCommandsCombineStencils := by
  intro s hs c hc
  rcases List.mem_pair.mp hc with rfl | rfl
  · exact exec_combined_of_ready hs (x := 4) (y := 5) nofun nofun nofun rfl rfl rfl
  · exact exec_combined_of_ready hs (x := 6) (y := 7) nofun nofun nofun rfl rfl rfl

/-- Settles O32: each law holds of the greater of two samples, hence of the output index by index. -/
theorem combinerLaws : Obligations.CombinerLaws := by
  intro s u hs hu hsize
  obtain ⟨t, hnext, -, ht⟩ := exec_max_of_ready hs
  obtain ⟨v, hnext', -, hv⟩ := exec_max_of_ready hu
  rw [← hsize] at hv
  refine ⟨t, v, hnext, hnext', fun i hi => ?bounds, fun hself i hi => ?idempotent, fun hswap i hi => ?commutative,
    fun hle i hi => ?monotone⟩
  case bounds =>
    rw [ht i hi]
    exact ⟨le_sampleMax_left _ _, le_sampleMax_right _ _, sampleMax_eq_or _ _⟩
  case idempotent => rw [ht i hi, ← hself i hi, sampleMax_self]
  case commutative =>
    obtain ⟨hAB, hBA⟩ := hswap i hi
    rw [ht i hi, hv i hi, hAB, hBA, sampleMax_comm]
  case monotone =>
    obtain ⟨hA, hB⟩ := hle i hi
    rw [ht i hi, hv i hi]
    exact sampleMax_mono hA hB

end Sys2Proof.Machine

/-! The laws of the host-side reference functions (48_reference_functions.md R171 to R178): the point transforms,
stretching, equalization and the range of the Gonzalez estimator. -/

namespace Sys2Proof.Machine

/-! ### The point transforms (R171 to R173) -/

theorem inverse_inverse (g : List Sample) : inverse (inverse g) = g := by
  have hsample : ∀ v : Sample, 255 - (255 - v) = v := sub_sub_cancel 255
  rw [inverse, inverse, List.map_map]
  exact List.map_id'' hsample g

theorem clampSample_of_nonpos {v : Int} (hv : v ≤ 0) : clampSample v = 0 := by
  rw [clampSample, max_eq_right hv]
  rfl

theorem clampSample_of_ge {v : Int} (hv : 255 ≤ v) : clampSample v = 255 := by
  rw [clampSample, min_eq_right (hv.trans (le_max_left v 0))]
  rfl

/-- The clamp leaves the value of a sample as it is. -/
@[simp] theorem clampSample_toNat (v : Sample) : clampSample v.toNat = v := by
  have hv := v.isLt
  rw [clampSample, max_eq_left (by omega), min_eq_left (by omega), BitVec.ofInt_natCast, BitVec.ofNat_toNat,
    BitVec.setWidth_eq]

theorem brightness_zero (g : List Sample) : brightness 0 g = g :=
  List.map_id'' (fun v => by rw [add_zero, clampSample_toNat]) g

/-- A factor of 1, written `q/q`. -/
theorem contrast_self (g : List Sample) {q : Nat} (hq : 0 < q) : contrast q q g = some g := by
  have hsample : ∀ v : Sample, BitVec.ofNat 8 (min (v.toNat * (q : Int).toNat / q) 255) = v := fun v => by
    have hv := v.isLt
    rw [Int.toNat_natCast, Nat.mul_div_cancel _ hq, min_eq_left (by omega), BitVec.ofNat_toNat, BitVec.setWidth_eq]
  rw [contrast, if_neg (by omega)]
  exact congrArg some (List.map_id'' hsample g)

theorem contrast_of_neg (g : List Sample) {p : Int} (q : Nat) (hp : p < 0) : contrast p q g = none := if_pos (.inl hp)

/-! ### Stretching (R174) -/

section Stretching

variable {low high x : Sample}

/-- A sample between the bounds stretches to the exact quotient, whose numerator is not negative. -/
theorem stretching_singleton (hlt : low.toNat < high.toNat) (hl : low.toNat ≤ x.toNat) :
    stretching low high [x] = [BitVec.ofNat 8 ((x.toNat - low.toNat) * 255 / (high.toNat - low.toNat))] := by
  have hne : low ≠ high := fun he => absurd (congrArg BitVec.toNat he) hlt.ne
  have hnum : ((x.toNat : Int) - low.toNat) * 255 = ((x.toNat - low.toNat) * 255 : Nat) := by omega
  rw [stretching, if_neg hne, List.map_singleton, hnum, tdiv_of_nonneg (Int.natCast_nonneg _), ← Int.natCast_ediv,
    BitVec.ofInt_natCast]

/-- The quotient of a sample between the bounds needs no clamp. -/
theorem stretchQuotient_le (hh : x.toNat ≤ high.toNat) :
    (x.toNat - low.toNat) * 255 / (high.toNat - low.toNat) ≤ 255 :=
  Nat.div_le_of_le_mul (Nat.mul_le_mul_right 255 (Nat.sub_le_sub_right hh low.toNat))

end Stretching

/-! ### Equalization (R176) -/

section Equalization

variable {H : Nat → Nat} {n high : Nat}

theorem cumulative_succ (H : Nat → Nat) (k : Nat) : cumulative H (k + 1) = cumulative H k + H (k + 1) := by
  rw [cumulative, List.range_succ, List.map_append, List.sum_append, List.map_singleton, List.sum_singleton, cumulative]

theorem cumulative_mono (H : Nat → Nat) : Monotone (cumulative H) :=
  monotone_nat_of_le_succ fun k => (Nat.le_add_right _ _).trans_eq (cumulative_succ H k).symm

/-- Beyond the last occupied intensity the cumulative histogram stays the same. -/
theorem cumulative_eq_of_le (hempty : ∀ k, high < k → H k = 0) {k : Nat} (hk : high ≤ k) :
    cumulative H k = cumulative H high := by
  induction k, hk using Nat.le_induction with
  | base => rfl
  | succ k hk ih => rw [cumulative_succ, hempty (k + 1) (by omega), add_zero, ih]

theorem cumulative_le (hempty : ∀ k, high < k → H k = 0) (k : Nat) : cumulative H k ≤ cumulative H high :=
  (le_total k high).elim (fun hk => cumulative_mono H hk) fun hk => (cumulative_eq_of_le hempty hk).le

/-- An entry of the table needs no clamp. -/
theorem equalizationLut_toNat {k : Nat} (hk : cumulative H k ≤ n) :
    (equalizationLut H n k).toNat = 255 * cumulative H k / n := by
  have hle : 255 * cumulative H k / n ≤ 255 :=
    Nat.div_le_of_le_mul ((Nat.mul_le_mul_left 255 hk).trans_eq (Nat.mul_comm 255 n))
  rw [equalizationLut, BitVec.toNat_ofNat, Nat.mod_eq_of_lt (by omega)]

end Equalization

/-- Settles O54: a threshold is the mean of two group means, each at most its group's greatest intensity. -/
theorem gonzalezStaysInRange : Obligations.GonzalezStaysInRange := fun _ _ _ hl hh => gonzalez_le hl hh

/-- Settles O55: neither quotient exceeds 255, since its numerator is at most 255 times its denominator, with equality
at `High`. -/
theorem stretchingAndEqualizationFill : Obligations.StretchingAndEqualizationFill := by
  refine ⟨fun low high x hlt hl hh => ⟨_, stretching_singleton hlt hl, ?quotient, ?low, ?high⟩,
    fun H n high hn htotal hempty => ?table⟩
  case quotient => rw [BitVec.toNat_ofNat, Nat.mod_eq_of_lt (Nat.lt_succ_of_le (stretchQuotient_le hh))]
  case low =>
    rintro rfl
    rw [Nat.sub_self, Nat.zero_mul, Nat.zero_div]
    rfl
  case high =>
    rintro rfl
    rw [Nat.mul_div_cancel_left 255 (Nat.sub_pos_of_lt hlt)]
    rfl
  case table =>
    have hentry (k : Nat) : (equalizationLut H n k).toNat = 255 * cumulative H k / n :=
      equalizationLut_toNat ((cumulative_le hempty k).trans_eq htotal)
    refine ⟨fun j k hjk => ?_, hentry, BitVec.eq_of_toNat_eq ?_⟩
    · rw [hentry, hentry]
      exact Nat.div_le_div_right (Nat.mul_le_mul_left 255 (cumulative_mono H hjk))
    · rw [hentry, htotal, Nat.mul_div_cancel 255 hn]
      rfl

/-- Settles O56: each law holds sample by sample; a brightened value beyond a bound is clamped to it. -/
theorem pointTransformLaws : Obligations.PointTransformLaws := fun g =>
  ⟨inverse_inverse g, brightness_zero g, fun _ hq => contrast_self g hq, fun _ q hp => contrast_of_neg g q hp,
    fun _ _ => ⟨fun _ hv => congrArg ([·]) (clampSample_of_ge hv.le),
      fun _ hv => congrArg ([·]) (clampSample_of_nonpos hv.le)⟩⟩

end Sys2Proof.Machine

/-! Acceptance and its errors, the completing step, and that the machine runs on (60_exceptions.md R190 to R204). -/

namespace Sys2Proof.Machine

section Exceptions

open Sys2Proof.Statement

variable {s t : State} {a : Transaction} {i : Instr} {w : Word}

/-! ### The checks of acceptance (R191, R198, R199) -/

theorem fits_of_gridOk (h : s.gridOk = true) : GridFits s := s.gridOk_iff.mp h

theorem gridOk_eq_false_iff : s.gridOk = false ↔ ¬ GridFits s :=
  Bool.eq_false_iff.trans (not_congr s.gridOk_iff)

theorem gridsMatch_eq_false_iff : s.gridsMatch = false ↔ s.bW ≠ s.aW ∨ s.bH ≠ s.aH := by
  rw [Bool.eq_false_iff, ne_eq, s.gridsMatch_iff, not_and_or]

/-- The causes of R198 are the ways in which grid A can fail to fit. -/
theorem not_gridFits_iff : ¬ GridFits s ↔ s.aW = 0 ∨ s.aH = 0 ∨ 2 ^ s.params.addrW < s.aW.toNat * s.aH.toNat := by
  rw [GridFits, not_and_or, not_and_or, not_not, not_not, not_le]

theorem exec_accepts (hb : s.busy = false) (hfits : GridFits s) (hm : i = .max → s.bW = s.aW ∧ s.bH = s.aH) :
    exec i s = .next (s.accept i) := by
  have hmatch : ¬ (i = .max ∧ s.gridsMatch = false) := fun ⟨hi, hne⟩ =>
    Bool.eq_false_iff.mp hne (s.gridsMatch_iff.mpr (hm hi))
  rw [exec_idle hb, if_pos (gridOk_of_fits hfits), if_neg hmatch]

theorem exec_raises_badDim (hb : s.busy = false) (hfits : ¬ GridFits s) (i : Instr) :
    exec i s = .next (s.raiseCmdError .badDim) := by
  rw [exec_idle hb, if_neg (Bool.eq_false_iff.mp (gridOk_eq_false_iff.mpr hfits))]

theorem exec_max_raises_dimMismatch (hb : s.busy = false) (hfits : GridFits s) (hm : s.bW ≠ s.aW ∨ s.bH ≠ s.aH) :
    exec .max s = .next (s.raiseCmdError .dimMismatch) := by
  rw [exec_idle hb, if_pos (gridOk_of_fits hfits), if_pos ⟨rfl, gridsMatch_eq_false_iff.mpr hm⟩]

/-- The dimensions of grid A after a reset are 0 (10_state.md R42). -/
theorem answers_command_afterReset (p : Params) (n : Nat) (i : Instr) :
    Answers (State.afterReset p n) ⟨0x08, .write4 (encode i)⟩ 0
      { State.afterReset p n with cmd := encode i, err := .badDim, done := true } := fun rest =>
  (hostStep_command (s := { State.afterReset p n with events := rest }) rfl i).trans
    (exec_raises_badDim (s := latched { State.afterReset p n with events := rest } (encode i)) rfl (fun h => h.1 rfl) i)

/-- The write of a command whose checks pass (R191). -/
theorem step_command_accepted (hb : s.busy = false) (hfits : GridFits s) (hm : i = .max → s.bW = s.aW ∧ s.bH = s.aH)
    (rest : List Event) : step { s with events := .host ⟨0x08, .write4 (encode i)⟩ :: rest }
      = .next { s.issued i with events := rest } := by
  have hexec := exec_accepts (s := latched { s with events := rest } (encode i)) hb hfits hm
  rw [State.accept_eq] at hexec
  exact (hostStep_command (s := { s with events := rest }) hb i).trans hexec

/-! ### What a `CMD` write reports (R196, R200, R201) -/

/-- An error sets `DONE` and leaves the block idle; no error makes it busy. -/
theorem Issued.flags_by_err (h : Issued w s t) (hb : s.busy = false) (hd : s.done = false) (he : s.err = .none) :
    t.done = decide (t.err ≠ .none) ∧ t.busy = decide (t.err = .none) := by
  cases h with
  | accepted i => simp [State.accept_eq, hd, he]
  | _ => exact ⟨rfl, hb⟩

/-- Each cause is reported when those before it do not apply. -/
theorem Issued.first_cause (h : Issued w s t) (he : s.err = .none) :
    ((∃ why, decode w = .illegal why) → t.err = .illegalOp)
      ∧ (∀ i, decode w = .instr i → ¬ GridFits s → t.err = .badDim)
      ∧ (∀ i, decode w = .instr i → GridFits s → i = .max → (s.bW ≠ s.aW ∨ s.bH ≠ s.aH) → t.err = .dimMismatch)
      ∧ (∀ i, decode w = .instr i → GridFits s → (i = .max → s.bW = s.aW ∧ s.bH = s.aH) → t.err = .none) := by
  cases h with
  | illegal why hd => simp [hd]
  | badDim j hd hg => simp [hd, gridOk_eq_false_iff.mp hg]
  | mismatch hd hg hm =>
    rcases gridsMatch_eq_false_iff.mp hm with hm | hm <;> simp [hd, fits_of_gridOk hg, hm]
  | accepted j hd hg hm =>
    have hmatch : j = .max → s.bW = s.aW ∧ s.bH = s.aH := fun hj => s.gridsMatch_iff.mp (hm hj)
    simp +contextual [hd, fits_of_gridOk hg, State.accept_eq, he, hmatch]

/-! ### Progress (R190, R204) -/

theorem Stepped.events_eq (h : Stepped s t) : t.events = s.events.tail := by
  cases h with
  | host _ _ _ _ _ ht => exact ht.events_eq
  | complete _ _ _ _ _ ht =>
    rw [ht.frame]
    rfl
  | idle => rfl
  | reset => rfl

theorem Stepped.offsetsInRange (h : Stepped s t) (hr : s.offsetsInRange) : t.offsetsInRange := by
  intro a ha
  rw [h.events_eq] at ha
  rw [h.params_eq]
  exact hr a (List.mem_of_mem_tail ha)

theorem Completed.status (h : Completed i s t) : t.busy = false ∧ t.done = true ∧ t.err = s.err := by
  cases h <;> exact ⟨rfl, rfl, rfl⟩

/-- A busy block that acceptance left runs its command to the end. -/
theorem engineStep_completes (hb : s.busy = true) (h : s.Accepted) :
    ∃ i t, engineStep s = .next t ∧ Completed i s t := by
  obtain ⟨i, hd, -, -⟩ := h.is_command
  obtain ⟨t, ht⟩ := exec_completes (i := i) hb h.grid_ok
  exact ⟨i, t, (engineStep_command hb hd).trans ht, exec_busy_next hb ht⟩

theorem State.Inv.engineStep_progress (h : s.Inv) : ∃ t, engineStep s = .next t := by
  cases hb : s.busy with
  | false => exact ⟨s, by simp [engineStep, hb]⟩
  | true =>
    obtain ⟨-, t, ht, -⟩ := engineStep_completes hb (h.busy_accepted hb)
    exact ⟨t, ht⟩

/-- Whatever is scheduled next, a consistent block does it. -/
theorem State.Inv.step_progress (h : s.Inv) (hr : s.offsetsInRange) : ∃ t, step s = .next t := by
  have hsched (es : List Event) : ({ s with events := es } : State).Inv := h.withSchedule es s.responses
  unfold step
  split
  next a rest he =>
    obtain ⟨t, ht, -⟩ := hostStep_next (s := { s with events := rest }) (hr a (he ▸ List.mem_cons_self))
    exact ⟨t, ht⟩
  next rest he => exact (hsched rest).engineStep_progress
  next rest he => exact ⟨_, rfl⟩
  next he => exact h.engineStep_progress

/-- What every step answers with and keeps, every run does. -/
theorem run_keeps {P : State → Prop} (hstep : ∀ s, P s → ∃ t, step s = .next t ∧ P t) (n : Nat) (hs : P s) :
    ∃ t, Host.Core.run core n s = .next t ∧ P t := by
  induction n generalizing s with
  | zero => exact ⟨s, rfl, hs⟩
  | succ n ih =>
    obtain ⟨u, hu, hPu⟩ := hstep s hs
    rw [run_succ n hu]
    exact ih hPu

/-! ### The host while the engine is busy (20_memory.md R70, R73) -/

/-- A transaction with a busy block is only answered. -/
theorem hostStep_of_busy (hb : s.busy = true) (ha : a.addr < 4 * s.params.maxSamples) :
    ∃ r, hostStep a s = .next (s.respond r) := by
  obtain ⟨t, hnext, ht⟩ := hostStep_next (s := s) ha
  cases ht with
  | error e => exact ⟨_, hnext⟩
  | read _ _ d => exact ⟨_, hnext⟩
  | _ _ hidle => exact absurd hb (Bool.eq_false_iff.mp hidle)

/-- Any number of transactions with a busy block add as many responses and change nothing else. -/
theorem run_busy_transactions (hb : s.busy = true) (as : List Transaction)
    (has : ∀ a ∈ as, a.addr < 4 * s.params.maxSamples) (rest : List Event) (n : Nat) :
    ∃ rs, rs.length = as.length
      ∧ Host.Core.run core (as.length + n) { s with events := as.map Event.host ++ rest }
        = Host.Core.run core n { s with events := rest, responses := rs ++ s.responses } := by
  induction as generalizing s with
  | nil => exact ⟨[], rfl, by rw [List.length_nil, Nat.zero_add]; rfl⟩
  | cons a as ih =>
    obtain ⟨ha, has⟩ := List.forall_mem_cons.mp has
    obtain ⟨r, hr⟩ := hostStep_of_busy (s := { s with events := as.map Event.host ++ rest }) hb ha
    obtain ⟨rs, hlen, hrun⟩ := ih (s := s.respond r) hb has
    refine ⟨rs ++ [r], by rw [List.length_append, hlen]; rfl, ?_⟩
    have hnext : step { s with events := (a :: as).map Event.host ++ rest }
        = .next { s.respond r with events := as.map Event.host ++ rest } := hr
    rw [List.length_cons, Nat.add_right_comm, List.append_assoc]
    exact (run_succ _ hnext).trans hrun

/-- The engine's turn after any number of transactions completes the command as it was accepted. -/
theorem run_busy_command (hb : s.busy = true) (hd : decode s.cmd = .instr i) (hg : s.gridOk = true)
    (as : List Transaction) (has : ∀ a ∈ as, a.addr < 4 * s.params.maxSamples) (rest : List Event) :
    ∃ rs t, rs.length = as.length
      ∧ Host.Core.run core (as.length + 1) { s with events := as.map Event.host ++ .engine :: rest } = .next t
      ∧ exec i { s with events := rest, responses := rs ++ s.responses } = .next t := by
  obtain ⟨rs, hlen, hrun⟩ := run_busy_transactions hb as has (.engine :: rest) 1
  obtain ⟨t, ht⟩ := exec_completes (i := i) (s := { s with events := rest, responses := rs ++ s.responses }) hb hg
  have hengine : step { s with events := .engine :: rest, responses := rs ++ s.responses } = .next t :=
    (engineStep_command (s := { s with events := rest, responses := rs ++ s.responses }) hb hd).trans ht
  exact ⟨rs, t, hlen, hrun.trans (run_succ 0 hengine), ht⟩

end Exceptions

/-- Settles O47: the invariant holds an accepted command in every busy block, which is all its completing step needs. -/
theorem consistentMachineNeverStops : Obligations.ConsistentMachineNeverStops := by
  intro s h hr
  obtain ⟨t, ht⟩ := h.step_progress hr
  exact ⟨t, ht, (step_next ht).inv h, (step_next ht).offsetsInRange hr⟩

/-- Settles O9: of the checks of R191 none fails. -/
theorem acceptanceStartsCommand : Obligations.AcceptanceStartsCommand := fun s i hb hfits hm => by
  rw [exec_accepts hb hfits hm, State.accept_eq]

/-- Settles O10: the check of grid A is the first of every command, and the dimensions after a reset are 0. -/
theorem badDimRejectsEveryCommand : Obligations.BadDimRejectsEveryCommand :=
  ⟨fun _ i hb hcause => exec_raises_badDim hb (not_gridFits_iff.mpr hcause) i, answers_command_afterReset⟩

/-- Settles O11: once grid A fits, a command is accepted, which leaves `ERR` alone, unless it is `MAX` with another
grid B. -/
theorem maxRejectsMismatchedGrids : Obligations.MaxRejectsMismatchedGrids := by
  intro s hb hfits
  refine ⟨exec_max_raises_dimMismatch hb hfits, fun i t he hexec ht => ?_, fun hw hh => ?_⟩
  · by_contra hno
    have hm : i = .max → s.bW = s.aW ∧ s.bH = s.aH := fun hi => by
      by_contra hne
      exact hno ⟨hi, not_and_or.mp hne⟩
    rw [exec_accepts hb hfits hm, State.accept_eq] at hexec
    cases hexec
    exact he ht
  · rw [hw, hh]
    exact hfits

/-- Settles O12, by the inversion law of a `CMD` write: its cases are the causes of R200 in their order, and none. -/
theorem firstErrorIsReported : Obligations.FirstErrorIsReported := by
  intro s w rest hb
  obtain ⟨t, ht, hissued⟩ := issueCommand_next w (s := State.respond (.okay 0) { s with events := rest }) hb
  have hframe := hissued.frame
  obtain ⟨hdone, hbusy⟩ := hissued.flags_by_err hb rfl rfl
  exact ⟨t, (hostStep_writeCmd (s := { s with events := rest }) hb w).trans ht, by rw [hframe]; rfl, by rw [hframe]; rfl,
    hdone, hbusy, hissued.first_cause rfl⟩

/-- Settles O48: the state after a reset is consistent, and so is every state it leads to. -/
theorem runsFromResetAreSafe : Obligations.RunsFromResetAreSafe := fun p n es hr k => by
  obtain ⟨t, ht, -⟩ := run_keeps (P := fun s => s.Inv ∧ s.offsetsInRange)
    (fun s ⟨h, hs⟩ => consistentMachineNeverStops s h hs) k ⟨(State.afterReset_inv p n).withSchedule es [], hr⟩
  exact ⟨t, ht⟩

/-- Settles O52: acceptance, then the transactions of a busy block, then the engine's turn on the command as latched. -/
theorem busyCommandRunsUndisturbed : Obligations.BusyCommandRunsUndisturbed := by
  intro s i as rest hb hfits hm has
  obtain ⟨rs, t, hlen, hrun, ht⟩ := run_busy_command (s := s.issued i) rfl (decode_encode i) (gridOk_of_fits hfits) as
    has rest
  exact ⟨rs, t, hlen, (run_succ _ (step_command_accepted hb hfits hm _)).trans hrun, ht⟩

/-- Settles O53: the transactions leave the busy block as it is, and the step after them completes its command. -/
theorem busyCommandCompletes : Obligations.BusyCommandCompletes := by
  intro s as h hb hes has
  obtain ⟨rs, -, hrun⟩ := run_busy_transactions hb as has [] 1
  rw [List.append_nil, ← hes] at hrun
  have hinv := h.withSchedule [] (rs ++ s.responses)
  obtain ⟨i, t, ht, hc⟩ := engineStep_completes (s := { s with events := [], responses := rs ++ s.responses }) hb
    (hinv.busy_accepted hb)
  obtain ⟨hidle, hdone, herr⟩ := hc.status
  exact ⟨t, hrun.trans (run_succ 0 ht), hidle, hdone, herr.trans (h.busy_flags hb).2⟩

/-- Settles O5: the write meets no case of R64, and its word is latched and decoded. -/
theorem hostCmdWriteRunsDecodedCommand : Obligations.HostCmdWriteRunsDecodedCommand := fun s w _ rest hb hd =>
  (hostStep_writeCmd (s := { s with events := rest }) hb w).trans (issueCommand_of_instr hd _)

/-- Settles O6: a busy engine's turn is one with the step when nothing is scheduled. -/
theorem engineStepRunsLatchedCommand : Obligations.EngineStepRunsLatchedCommand := fun s _ hb hd =>
  ⟨fun rest => engineStep_command (s := { s with events := rest }) hb hd,
    engineStep_command (s := { s with events := [] }) hb hd⟩

end Sys2Proof.Machine
